-- ==== Sys2Proof/Word.lean ====
section
/-! DEFINITION. The words of the block: bytes, 32-bit register words and byte strings (00_scope.md R14–R16). -/

namespace Sys2Proof

/-- One byte of BUF or of a stream (00_scope.md R16). -/
abbrev Byte := BitVec 8

/-- A register value or a command word: 32 bits (00_scope.md R14, 30_encoding.md R110). -/
abbrev Word := BitVec 32

/-- A finite byte string (00_scope.md R16). -/
abbrev Bytes := List Byte

end Sys2Proof
end

