-- ==== Sys2Proof/Syntax.lean ====
section
/-! DEFINITION. The commands: one constructor per row of the opcode map (30_encoding.md R114). -/

namespace Sys2Proof

/-- A decoded command (30_encoding.md R114, R116). Commands take no register numbers (R113); the two IMM commands carry the
byte IMM8 (R112). -/
inductive Instr where
  | nop
  | crcInit
  | crcUpdate
  | crcUpdateImm (imm8 : Byte)
  | crc32
  | adlerInit
  | adlerUpdate
  | adlerUpdateImm (imm8 : Byte)
  | adler32
  | zwrap
  | zunwrap
  | zframe
  | zstrip
  | sigEmit
  | sigCheck
  | chunkEmit
  | chunkParse
  | chunkSplit
deriving DecidableEq, Repr

end Sys2Proof
end

