-- ==== Sys2Proof/WellFormed.lean ====
section
/-! DEFINITION. Well-formedness. Every term of `Instr` is well formed, since its one operand is a byte by type; what can be
ill formed is a command WORD (30_encoding.md R115). The check on words is written from the match and mask pairs of R114,
apart from the decoder, so that the two can be held against each other. -/

namespace Sys2Proof

/-- Every command is well formed: IMM8 is a byte by type and no command has another operand (30_encoding.md R112, R113). -/
def Instr.wellFormed : Instr → Bool
  | .nop => true
  | .crcInit => true
  | .crcUpdate => true
  | .crcUpdateImm _ => true
  | .crc32 => true
  | .adlerInit => true
  | .adlerUpdate => true
  | .adlerUpdateImm _ => true
  | .adler32 => true
  | .zwrap => true
  | .zunwrap => true
  | .zframe => true
  | .zstrip => true
  | .sigEmit => true
  | .sigCheck => true
  | .chunkEmit => true
  | .chunkParse => true
  | .chunkSplit => true

/-- One row of the opcode map: a word belongs to it when the masked word equals `pattern`. -/
structure OpcodeRow where
  mnemonic : String
  pattern : Word
  mask : Word
deriving DecidableEq, Repr

/-- The opcode map (30_encoding.md R114), with its match and mask pairs. -/
def opcodeTable : List OpcodeRow :=
  [ ⟨"NOP", 0x00, 0xFFFFFFFF⟩, ⟨"CRC_INIT", 0x01, 0xFFFFFFFF⟩, ⟨"CRC_UPDATE", 0x02, 0xFFFFFFFF⟩,
    ⟨"CRC_UPDATE_IMM", 0x03, 0xFFFF00FF⟩, ⟨"CRC32", 0x04, 0xFFFFFFFF⟩, ⟨"ADLER_INIT", 0x08, 0xFFFFFFFF⟩,
    ⟨"ADLER_UPDATE", 0x09, 0xFFFFFFFF⟩, ⟨"ADLER_UPDATE_IMM", 0x0A, 0xFFFF00FF⟩, ⟨"ADLER32", 0x0B, 0xFFFFFFFF⟩,
    ⟨"ZWRAP", 0x10, 0xFFFFFFFF⟩, ⟨"ZUNWRAP", 0x11, 0xFFFFFFFF⟩, ⟨"ZFRAME", 0x12, 0xFFFFFFFF⟩,
    ⟨"ZSTRIP", 0x13, 0xFFFFFFFF⟩, ⟨"SIG_EMIT", 0x20, 0xFFFFFFFF⟩, ⟨"SIG_CHECK", 0x21, 0xFFFFFFFF⟩,
    ⟨"CHUNK_EMIT", 0x22, 0xFFFFFFFF⟩, ⟨"CHUNK_PARSE", 0x23, 0xFFFFFFFF⟩, ⟨"CHUNK_SPLIT", 0x24, 0xFFFFFFFF⟩ ]

/-- The word is in the row. -/
def OpcodeRow.covers (r : OpcodeRow) (w : Word) : Bool := w &&& r.mask == r.pattern

/-- A command word is well formed when some row of the opcode map covers it (30_encoding.md R114, R115). -/
def wordWellFormed (w : Word) : Bool := opcodeTable.any (·.covers w)

end Sys2Proof
end

