-- ==== Sys2Proof/Decode.lean ====
section
/-! DEFINITION. The decoder of command words (30_encoding.md R110–R116), total, naming why a word is illegal, and the
encoder written from the same tables. -/

namespace Sys2Proof

/-- Why a command word is illegal: the three conditions of 30_encoding.md R115. All three end with the one error E_ILLEGAL;
where several hold, which name is given is DESIGN CHOICE, log 18. -/
inductive Illegal where
  | rsvNonzero          -- R115 (b)
  | unassignedOpcode    -- R115 (a)
  | immNotAllowed       -- R115 (c)
deriving DecidableEq, Repr

/-- What a command word decodes to (30_encoding.md R116: `Command ⊕ Illegal`). -/
inductive Decoded where
  | cmd (i : Instr)
  | illegal (why : Illegal)
deriving DecidableEq, Repr

/-- OPC = CMD[7:0] (30_encoding.md R110). -/
def opcField (w : Word) : Byte := w.extractLsb' 0 8

/-- IMM8 = CMD[15:8] (30_encoding.md R110, R112). -/
def imm8Field (w : Word) : Byte := w.extractLsb' 8 8

/-- RSV = CMD[31:16] (30_encoding.md R110). -/
def rsvField (w : Word) : BitVec 16 := w.extractLsb' 16 16

/-- A command whose IMM8 field must be 0 (30_encoding.md R112). -/
def plainCommand (imm : Byte) (i : Instr) : Decoded :=
  if imm = 0 then .cmd i else .illegal .immNotAllowed

/-- The opcode map (30_encoding.md R114) on the two low fields. -/
def decodeFields (opc imm : Byte) : Decoded :=
  match opc with
  | 0x00#8 => plainCommand imm .nop
  | 0x01#8 => plainCommand imm .crcInit
  | 0x02#8 => plainCommand imm .crcUpdate
  | 0x03#8 => .cmd (.crcUpdateImm imm)
  | 0x04#8 => plainCommand imm .crc32
  | 0x08#8 => plainCommand imm .adlerInit
  | 0x09#8 => plainCommand imm .adlerUpdate
  | 0x0A#8 => .cmd (.adlerUpdateImm imm)
  | 0x0B#8 => plainCommand imm .adler32
  | 0x10#8 => plainCommand imm .zwrap
  | 0x11#8 => plainCommand imm .zunwrap
  | 0x12#8 => plainCommand imm .zframe
  | 0x13#8 => plainCommand imm .zstrip
  | 0x20#8 => plainCommand imm .sigEmit
  | 0x21#8 => plainCommand imm .sigCheck
  | 0x22#8 => plainCommand imm .chunkEmit
  | 0x23#8 => plainCommand imm .chunkParse
  | 0x24#8 => plainCommand imm .chunkSplit
  | _ => .illegal .unassignedOpcode

/-- The decoding function (30_encoding.md R116). -/
def decode (w : Word) : Decoded :=
  if rsvField w ≠ 0 then .illegal .rsvNonzero
  else decodeFields (opcField w) (imm8Field w)

/-- The opcode of a command (30_encoding.md R114). -/
def Instr.opc : Instr → Byte
  | .nop => 0x00
  | .crcInit => 0x01
  | .crcUpdate => 0x02
  | .crcUpdateImm _ => 0x03
  | .crc32 => 0x04
  | .adlerInit => 0x08
  | .adlerUpdate => 0x09
  | .adlerUpdateImm _ => 0x0A
  | .adler32 => 0x0B
  | .zwrap => 0x10
  | .zunwrap => 0x11
  | .zframe => 0x12
  | .zstrip => 0x13
  | .sigEmit => 0x20
  | .sigCheck => 0x21
  | .chunkEmit => 0x22
  | .chunkParse => 0x23
  | .chunkSplit => 0x24

/-- The IMM8 field of a command (30_encoding.md R112). -/
def Instr.imm8 : Instr → Byte
  | .crcUpdateImm imm => imm
  | .adlerUpdateImm imm => imm
  | .nop => 0
  | .crcInit => 0
  | .crcUpdate => 0
  | .crc32 => 0
  | .adlerInit => 0
  | .adlerUpdate => 0
  | .adler32 => 0
  | .zwrap => 0
  | .zunwrap => 0
  | .zframe => 0
  | .zstrip => 0
  | .sigEmit => 0
  | .sigCheck => 0
  | .chunkEmit => 0
  | .chunkParse => 0
  | .chunkSplit => 0

/-- The command word of a command: RSV = 0, IMM8, OPC (30_encoding.md R110). -/
def encode (i : Instr) : Word := (0#16 ++ i.imm8) ++ i.opc

/-- The command word whose bits are `w`, of which the table gives `nbits` and all above are 0. A command is one 32-bit write
(30_encoding.md R111), so a word does not depend on a byte order; bits past the 32nd are none of it (log 23). -/
def tableWord (nbits w : Nat) : Option Word :=
  let v := w % 2 ^ nbits
  if v < 2 ^ 32 then some (BitVec.ofNat 32 v) else none

/-- The instruction read from a word numbered as the opcode table numbers it. -/
def decodeTableWord (nbits w : Nat) : Option Instr :=
  match tableWord nbits w with
  | none => none
  | some v =>
    match decode v with
    | .cmd i => some i
    | .illegal _ => none

end Sys2Proof
end

