-- ==== Sys2Proof/Config.lean ====
section
/-! DEFINITION. What is fixed for this hardware (00_scope.md section 4) and the free values the spec leaves open
(93_implementation_defined.md Part 1). The constants marked opaque have no body: nothing is known of them but their type. -/

namespace Sys2Proof.Config

/-- The greatest legal `BUF_BYTES` (00_scope.md R8). -/
def bufBytesMax : Nat := 65536

/-- The least legal `BUF_BYTES` (00_scope.md R8). -/
def bufBytesMin : Nat := 16

/-- The default of the parameter `BUF_BYTES` for this hardware (00_scope.md R8). -/
def bufBytesDefault : Fin (bufBytesMax + 1) := ⟨65536, by decide⟩

/-- The default of the parameter `SIG[0..7]` for this hardware (00_scope.md R9). -/
def sigDefault : Vector Byte 8 := #v[0x89, 0x50, 0x4E, 0x47, 0x0D, 0x0A, 0x1A, 0x0A]

/-- The constant of register ID (10_state.md R31). -/
def idValue : Word := 0x494D4733

/-- `ZHDR_RESET` (00_scope.md R10): the reset value of ZHDR_OUT[15:0]. -/
def zhdrReset : BitVec 16 := 0x789C

/-- `CEIL_RESET` (00_scope.md R11). -/
def ceilReset : Word := 8192

/-- The initial value of the running CRC and the final complement (00_scope.md R13). -/
def crcInit : Word := 0xFFFFFFFF

/-- The reflected CRC-32 polynomial `POLY` (41_checksum.md R190). -/
def poly : Word := 0xEDB88320

/-- The initial running Adler-32 value: a = 1, b = 0 (00_scope.md R13). -/
def adlerInit : Word := 0x00000001

/-- The Adler-32 modulus (00_scope.md R13). -/
def adlerMod : Nat := 65521

/-- The type tags the parser classifies (30_encoding.md R138): `IHDR`, `IDAT`, `IEND`. -/
def tagHeader : Word := 0x49484452
def tagData : Word := 0x49444154
def tagEnd : Word := 0x49454E44

/-- The external transform (00_scope.md R12): DEFLATE is total, INFLATE is partial, and the round-trip law is all that is
assumed of the pair. The field defaults say only that a lawful pair exists (the identity), which Lean asks for before it
takes an opaque constant of this type. -/
structure Transform where
  deflate : Bytes → Bytes := fun r => r
  inflate : Bytes → Option Bytes := fun s => some s
  law : ∀ r, inflate (deflate r) = some r := by intro r; rfl
deriving Inhabited

/-- DEFLATE and INFLATE of this hardware (00_scope.md R12; 93_implementation_defined.md U5, U6): some lawful pair. Log 3. -/
opaque transform : Transform

/-- Draw number `k` of the BUF byte at offset `a` (00_scope.md R17 `undefined`; 93_implementation_defined.md U1–U3). Logs 4, 5. -/
opaque bufDraw : (k a : Nat) → Byte

/-- Draw number `k` of the read data returned with a bus error response (20_memory.md R85; U4). Log 6. -/
opaque readErrorDraw : (k : Nat) → Word

end Sys2Proof.Config
end

