-- ==== Sys2Proof/Machine/State.lean ====
section
/-! DEFINITION. The state of the block as plain data (10_state.md), the host's side of the bus (20_memory.md), the reasons a
step can stop, and the state after power-on reset (70_reset_and_hazards.md R341). -/

namespace Sys2Proof.Machine

/-- The engine (10_state.md R68): IDLE, or PENDING with the command word it was issued. STATUS.BUSY is 1 exactly while it is
PENDING (R35), so BUSY has no second home (log 10). -/
inductive Engine where
  | idle
  | pending (cmd : Word)
deriving DecidableEq, Repr

/-- The stored fields of STATUS (10_state.md R36–R40). Its reserved bits read 0 (R41) and have no storage. -/
structure Status where
  done : Bool
  err : Bool
  errcode : Byte
  crcOk : Bool
  ztrlOk : Bool
deriving DecidableEq, Repr

/-- The operand registers (10_state.md R43–R49). Of ZHDR_OUT only bits 15:0 have storage (R49, log 15). -/
structure Operands where
  src : Word
  len : Word
  dst : Word
  dcap : Word
  type : Word
  ceil : Word
  zhdrOut : BitVec 16
deriving DecidableEq, Repr

/-- The result registers (10_state.md R53–R63). Of CH_KIND only bits 1:0 (R59) and of ZHDR_IN only bits 15:0 (R61) have
storage (log 15). -/
structure Results where
  outlen : Word
  next : Word
  chLen : Word
  chType : Word
  chCrc : Word
  chCrcCalc : Word
  chKind : BitVec 2
  chunkCnt : Word
  zhdrIn : BitVec 16
  ztrailer : Word
  zadlerCalc : Word
deriving DecidableEq, Repr

/-- The size of a host access: 1, 2 or 4 bytes (00_scope.md R7). -/
inductive AccessSize where
  | byte
  | half
  | word
deriving DecidableEq, Repr

/-- What a host access does (00_scope.md R7). -/
inductive HostOp where
  | read
  | write (data : Word)
deriving DecidableEq, Repr

/-- One host access: a 17-bit offset within the block's aperture, a size, a read or a write (00_scope.md R7, R14). -/
structure HostAccess where
  off : BitVec 17
  size : AccessSize
  op : HostOp
deriving DecidableEq, Repr

/-- The answer to a host access (00_scope.md R7): read data, or the bus error response (20_memory.md R85). -/
inductive BusResponse where
  | readOk (data : Word)
  | writeOk
  | readError (data : Word)
  | writeError
deriving DecidableEq, Repr

/-- What can reach the block from outside: a host access, or power-on reset (70_reset_and_hazards.md R340). -/
inductive Event where
  | access (a : HostAccess)
  | powerOnReset
deriving DecidableEq, Repr

/-- An event still to come, and how many moves of the block itself go before it (20_memory.md R96, 70_reset_and_hazards.md
R360; log 7). -/
structure Arrival where
  delay : Nat
  event : Event
deriving DecidableEq, Repr

/-- The registers of the block by name (10_state.md R30). -/
inductive Reg where
  | id
  | ctrl
  | status
  | cmd
  | src
  | len
  | dst
  | dcap
  | type
  | ceil
  | zhdrOut
  | crcState
  | crcValue
  | adler
  | outlen
  | next
  | chLen
  | chType
  | chCrc
  | chCrcCalc
  | chKind
  | chunkCnt
  | zhdrIn
  | ztrailer
  | zadlerCalc
  | sigHi
  | sigLo
  | bufsize
deriving DecidableEq, Repr

/-- What a host access reaches (20_memory.md R80–R84). -/
inductive Target where
  | register (r : Reg)
  | reserved
  | buffer (a : Nat)
  | busError
deriving DecidableEq, Repr

/-- The error codes' names (60_exceptions.md R300). -/
inductive CmdError where
  | illegal
  | srcRange
  | dstRange
  | overlap
  | overflow
  | param
  | format
  | ztrunc
  | inflate
  | ctrunc
deriving DecidableEq, Repr

/-- One check of 40_command_execution.md R163: whether it fails, and the error it then raises. -/
structure Check where
  fails : Bool
  error : CmdError
deriving DecidableEq, Repr

/-- The bytes of BUF that have a value of their own: (offset, byte) pairs, offsets strictly rising (`Memory.wf`). An offset
that is not listed has no value of its own: the byte there is the power-on draw (log 4). -/
abbrev Memory := List Host.Cell

/-- The parameters a block is built with: `BUF_BYTES`, at most 65536 by type (00_scope.md R8; that it is at least 16 is part of
the legal states), and `SIG`, eight bytes of any value (R9). No step changes them. Logs 1, 2. -/
structure Params where
  bufBytes : Fin (Config.bufBytesMax + 1)
  sig : Vector Byte 8
deriving DecidableEq, Repr

/-- The parameters at their defaults for this hardware (00_scope.md R8, R9). -/
def Params.standard : Params := { bufBytes := Config.bufBytesDefault, sig := Config.sigDefault }

/-- The whole state. -/
structure State where
  /-- BUF_BYTES and SIG (00_scope.md R8, R9): what this block was built with -/
  par : Params
  /-- engine (10_state.md R68) -/
  eng : Engine
  /-- CTRL.IE (10_state.md R32) -/
  ie : Bool
  /-- STATUS but for BUSY (10_state.md R36–R40) -/
  status : Status
  /-- operand registers (10_state.md R43–R49) -/
  opr : Operands
  /-- CRC_STATE (10_state.md R50) -/
  crcState : Word
  /-- ADLER (10_state.md R52) -/
  adler : Word
  /-- result registers (10_state.md R53–R63) -/
  res : Results
  /-- BUF (10_state.md R67): the bytes written since power-on reset -/
  buf : Memory
  /-- the draw that gave BUF its contents at power-on reset (model's own, log 4) -/
  bufEpoch : Nat
  /-- the next unused draw (model's own, log 4) -/
  draws : Nat
  /-- host accesses the bus holds, in issue order (20_memory.md R87; log 7) -/
  held : List HostAccess
  /-- what is still to come from outside (model's own, log 7) -/
  arrivals : List Arrival
  /-- the response last given on the host bus (00_scope.md R7; log 9) -/
  rsp : Option BusResponse
deriving DecidableEq, Repr

/-- Reasons for which the machine stops with a fault. There is none: a command that fails ends with an error code and the
machine goes on (40_command_execution.md R170), and a bus error is a response (20_memory.md R85). So the type is empty and
nobody raises it. Log 19 (safe: no step is left out by a fault). -/
inductive Fault where
deriving DecidableEq, Repr

/-- Reasons for which a step has no meaning. -/
inductive Refusal where
  /-- Raised by an arm of `exec` whose command has no meaning yet, with its mnemonic (safe: the step stops). No arm of this
  model raises it. -/
  | notModelled (mnemonic : String)
deriving DecidableEq, Repr

/-- STATUS after reset: 0 (10_state.md R30). -/
def Status.reset : Status :=
  { done := false, err := false, errcode := 0, crcOk := false, ztrlOk := false }

/-- The operand registers after reset (10_state.md R30, 70_reset_and_hazards.md R341). -/
def Operands.reset : Operands :=
  { src := 0, len := 0, dst := 0, dcap := 0, type := 0, ceil := Config.ceilReset, zhdrOut := Config.zhdrReset }

/-- The result registers after reset (10_state.md R30, 70_reset_and_hazards.md R341). -/
def Results.reset : Results :=
  { outlen := 0, next := 0, chLen := 0, chType := 0, chCrc := 0, chCrcCalc := 0, chKind := 0, chunkCnt := 0,
    zhdrIn := 0, ztrailer := 0, zadlerCalc := 0 }

/-- The block with the parameters `p` after power-on reset (70_reset_and_hazards.md R341): every register at its reset value,
the engine IDLE, BUF unspecified (draw 0). The model's own fields: no access held or to come, no response given, draw 0 used
for BUF (logs 4, 7, 9). -/
def State.resetWith (p : Params) : State :=
  { par := p, eng := .idle, ie := false, status := Status.reset, opr := Operands.reset,
    crcState := Config.crcInit, adler := Config.adlerInit, res := Results.reset,
    buf := [], bufEpoch := 0, draws := 1, held := [], arrivals := [], rsp := none }

/-- This hardware after power-on reset: the parameters at their defaults (logs 1, 2). -/
def State.reset : State := State.resetWith Params.standard

end Sys2Proof.Machine
end

