-- ==== Sys2Proof/Machine/Flags.lean ====
section
/-! DEFINITION. Flag and checksum computations: CRC-32 and Adler-32 (41_checksum.md), the chunk kind (43_framer.md R279), the
error codes (60_exceptions.md R300), STATUS and CTRL as words (10_state.md), `irq` (60_exceptions.md R310). -/

namespace Sys2Proof.Machine

/-- One of the eight shifts of 41_checksum.md R191: shift right, and fold in POLY when a 1 leaves. -/
def crcShift (c : Word) : Word :=
  if c.getLsbD 0 then (c >>> 1) ^^^ Config.poly else c >>> 1

/-- `n` shifts. -/
def crcShifts : Nat → Word → Word
  | 0, c => c
  | n + 1, c => crcShifts n (crcShift c)

/-- Entry `n` of the table `CRC_T` (41_checksum.md R191), computed as the rule says. -/
def crcTable (n : Byte) : Word := crcShifts 8 (n.setWidth 32)

/-- `crc_step` (41_checksum.md R192). -/
def crcStep (s : Word) (x : Byte) : Word :=
  crcTable ((s ^^^ x.setWidth 32).setWidth 8) ^^^ (s >>> 8)

/-- `crc_fold` (41_checksum.md R192). -/
def crcFold : Word → Bytes → Word
  | s, [] => s
  | s, x :: xs => crcFold (crcStep s x) xs

/-- `CRC_VALUE` of a running state (10_state.md R51): the final complement. -/
def crcFinal (s : Word) : Word := s ^^^ 0xFFFFFFFF

/-- `crc32` (41_checksum.md R192). -/
def crc32 (bytes : Bytes) : Word := crcFinal (crcFold Config.crcInit bytes)

/-- The accumulator a = v[15:0] of a running Adler-32 value (10_state.md R52). -/
def adlerA (v : Word) : Nat := v.toNat % 65536

/-- The accumulator b = v[31:16] of a running Adler-32 value (10_state.md R52). -/
def adlerB (v : Word) : Nat := v.toNat / 65536

/-- `(b << 16) | a` (41_checksum.md R200), for halves of 16 bits each. -/
def adlerPack (a b : Nat) : Word := BitVec.ofNat 16 b ++ BitVec.ofNat 16 a

/-- `adler_step` (41_checksum.md R200): exact sums, each reduced; b uses the new a. -/
def adlerStep (v : Word) (x : Byte) : Word :=
  let a' := (adlerA v + x.toNat) % Config.adlerMod
  let b' := (adlerB v + a') % Config.adlerMod
  adlerPack a' b'

/-- `adler_fold` (41_checksum.md R200). -/
def adlerFold : Word → Bytes → Word
  | v, [] => v
  | v, x :: xs => adlerFold (adlerStep v x) xs

/-- `adler32` (41_checksum.md R200). -/
def adler32 (bytes : Bytes) : Word := adlerFold Config.adlerInit bytes

/-- `kind` of a type tag (43_framer.md R279). -/
def chunkKind (tag : Word) : BitVec 2 :=
  if tag = Config.tagHeader then 1
  else if tag = Config.tagData then 2
  else if tag = Config.tagEnd then 3
  else 0

/-- The error codes (60_exceptions.md R300). -/
def CmdError.code : CmdError → Byte
  | .illegal => 0x01
  | .srcRange => 0x02
  | .dstRange => 0x03
  | .overlap => 0x04
  | .overflow => 0x05
  | .param => 0x06
  | .format => 0x10
  | .ztrunc => 0x20
  | .inflate => 0x21
  | .ctrunc => 0x22

/-- STATUS.BUSY (10_state.md R35, R68). -/
def State.busy (s : State) : Bool :=
  match s.eng with
  | .idle => false
  | .pending _ => true

/-- A bit as a number. -/
def bit (b : Bool) : BitVec 1 := BitVec.ofBool b

/-- STATUS as read: ZTRL_OK 17, CRC_OK 16, ERRCODE 15:8, ERR 2, DONE 1, BUSY 0, the rest 0 (10_state.md R35–R41). -/
def State.statusWord (s : State) : Word :=
  0#14 ++ bit s.status.ztrlOk ++ bit s.status.crcOk ++ s.status.errcode ++ 0#5
    ++ bit s.status.err ++ bit s.status.done ++ bit s.busy

/-- CTRL as read: IE 0, the rest 0 (10_state.md R32–R34). -/
def State.ctrlWord (s : State) : Word := (bit s.ie).setWidth 32

/-- The `irq` output (60_exceptions.md R310). -/
def State.irq (s : State) : Bool := s.ie && (s.status.done || s.status.err)

end Sys2Proof.Machine
end

