-- ==== Sys2Proof/Machine/Ops.lean ====
section
/-! DEFINITION. The named operations over BUF and the registers: reading and writing bytes (00_scope.md R17), free values
(`undefined`), issue, the two ends of a command (40_command_execution.md R161, R169, R170), the acknowledgement of an error
(60_exceptions.md R313), and the resets (70_reset_and_hazards.md R341, R342). -/

namespace Sys2Proof.Machine

/-- `BUF_BYTES` (00_scope.md R8). -/
def State.bufBytes (s : State) : Nat := s.par.bufBytes.val

/-- `SIG` as a byte string (00_scope.md R9). -/
def State.sig (s : State) : Bytes := s.par.sig.toList

/-- Memory's one form: offsets strictly rising. An unlisted offset has no value of its own, so no entry repeats one. -/
abbrev Memory.wf (m : Memory) : Prop := m.Pairwise (fun x y => x.1 < y.1)

/-- The byte written at `a`, if any. -/
def Memory.lookup : Memory → Nat → Option Byte
  | [], _ => none
  | (k, b) :: m, a => if k = a then some b else Memory.lookup m a

/-- The entries of the bytes `xs` from offset `a` on. -/
def Memory.cells : Nat → Bytes → Memory
  | _, [] => []
  | a, x :: xs => (a, x) :: Memory.cells (a + 1) xs

/-- The bytes `xs` stored from offset `a` on; every other entry stays. -/
def Memory.store (m : Memory) (a : Nat) (xs : Bytes) : Memory :=
  m.filter (fun c => decide (c.1 < a)) ++ (Memory.cells a xs ++ m.filter (fun c => decide (a + xs.length ≤ c.1)))

/-- `BUF[a]` (00_scope.md R17): the byte written there, else the draw of the last power-on reset (70_reset_and_hazards.md R341,
93_implementation_defined.md U1). This is what an unlisted offset reads as. Log 4. -/
def State.bufByte (s : State) (a : Nat) : Byte :=
  match s.buf.lookup a with
  | some b => b
  | none => Config.bufDraw s.bufEpoch a

/-- `MemRead(a, n)` (00_scope.md R17). -/
def State.memRead (s : State) (a n : Nat) : Bytes := (List.range' a n).map s.bufByte

/-- `MemWrite(a, |xs|, xs)` (00_scope.md R17). -/
def State.memWrite (s : State) (a : Nat) (xs : Bytes) : State := { s with buf := s.buf.store a xs }

/-- `undefined(a, n)` (00_scope.md R17): each byte of `BUF[a..a+n)` takes a fresh draw. Log 5. -/
def State.undefinedBytes (s : State) (a n : Nat) : State :=
  { s.memWrite a ((List.range' a n).map (Config.bufDraw s.draws)) with draws := s.draws + 1 }

/-- Issue of the command word `w` (40_command_execution.md R161). -/
def State.issue (s : State) (w : Word) : State :=
  { s with eng := .pending w, status := { s.status with done := false, err := false, errcode := 0 } }

/-- Successful end (40_command_execution.md R162, R169). -/
def State.finish (s : State) : State :=
  { s with eng := .idle, status := { s.status with done := true, err := false, errcode := 0 } }

/-- Error end, `raise e` (40_command_execution.md R162, R170; 60_exceptions.md R312): the block's only exception event. -/
def State.raise (s : State) (e : CmdError) : State :=
  { s with eng := .idle, status := { s.status with done := false, err := true, errcode := e.code } }

/-- A host write to STATUS (10_state.md R36–R38, R41): bit 1 clears DONE, bit 2 clears ERR and with it ERRCODE. It is the
block's return from an error (60_exceptions.md R313). -/
def State.acknowledge (s : State) (v : Word) : State :=
  { s with status :=
      { s.status with
        done := s.status.done && !v.getLsbD 1
        err := s.status.err && !v.getLsbD 2
        errcode := if v.getLsbD 2 then 0 else s.status.errcode } }

/-- OUTLEN and NEXT of a command that ends without error (10_state.md R53, R54): `n` bytes from offset `start`. -/
def State.setOut (s : State) (start : Word) (n : Nat) : State :=
  { s with res := { s.res with outlen := BitVec.ofNat 32 n, next := start + BitVec.ofNat 32 n } }

/-- `out` written at DST, with OUTLEN and NEXT (40_command_execution.md R167; 10_state.md R53, R54). -/
def State.emit (s : State) (out : Bytes) : State :=
  (s.memWrite s.opr.dst.toNat out).setOut s.opr.dst out.length

/-- Every register at its reset value and the engine IDLE; BUF and the host's side are left as they are
(70_reset_and_hazards.md R341, R342). -/
def State.resetRegs (s : State) : State :=
  { s with
    eng := State.reset.eng, ie := State.reset.ie, status := State.reset.status, opr := State.reset.opr,
    crcState := State.reset.crcState, adler := State.reset.adler, res := State.reset.res }

/-- Power-on reset (70_reset_and_hazards.md R340, R341): the registers at reset, BUF all drawn anew. The accesses the bus holds
are the host's and stay (DEDUCED from 20_memory.md R87, log 8). -/
def State.powerOn (s : State) : State :=
  { s.resetRegs with buf := [], bufEpoch := s.draws, draws := s.draws + 1, rsp := none }

end Sys2Proof.Machine
end

