-- ==== Sys2Proof/Machine/Operands.lean ====
section
/-! DEFINITION. The operands of commands: byte order (00_scope.md R16, 20_memory.md R83), the source and destination ranges and
their checks (40_command_execution.md R163–R166), header and tag bytes (42_zlib.md R230, 10_state.md R47). -/

namespace Sys2Proof.Machine

/-- `BE32(v)` (00_scope.md R16). -/
def be32 (v : Word) : Bytes :=
  [v.extractLsb' 24 8, v.extractLsb' 16 8, v.extractLsb' 8 8, v.extractLsb' 0 8]

/-- `beword` of the first four bytes of a string (00_scope.md R16). The rules give it only four bytes or more; shorter strings
never reach it (log 22). -/
def beword : Bytes → Word
  | b0 :: b1 :: b2 :: b3 :: _ => b0 ++ b1 ++ b2 ++ b3
  | _ => 0

/-- `x[i..j)` (00_scope.md R16). -/
def slice (x : Bytes) (i j : Nat) : Bytes := (x.drop i).take (j - i)

/-- The value of window bytes in the host's lane order: `Σ BUF[a+i] << 8i` (20_memory.md R83). -/
def leWord : Bytes → Word
  | [] => 0
  | b :: bs => b.setWidth 32 ||| (leWord bs <<< 8)

/-- The `n` low bytes of write data in the host's lane order (20_memory.md R83). -/
def leBytes : Nat → Word → Bytes
  | 0, _ => []
  | n + 1, v => v.setWidth 8 :: leBytes n (v >>> 8)

/-- The two header bytes the block writes (42_zlib.md R230, 10_state.md R49). -/
def zhdrBytes (z : BitVec 16) : Bytes := [z.extractLsb' 8 8, z.extractLsb' 0 8]

/-- The two header bytes of a stream as ZHDR_IN holds them (10_state.md R61, 42_zlib.md R235). -/
def zhdrOf : Bytes → BitVec 16
  | b0 :: b1 :: _ => b0 ++ b1
  | _ => 0

/-- The commands that read a source range (40_command_execution.md R164). -/
def readsSource : Instr → Bool
  | .nop => false
  | .crcInit => false
  | .crcUpdate => true
  | .crcUpdateImm _ => false
  | .crc32 => true
  | .adlerInit => false
  | .adlerUpdate => true
  | .adlerUpdateImm _ => false
  | .adler32 => true
  | .zwrap => true
  | .zunwrap => true
  | .zframe => true
  | .zstrip => true
  | .sigEmit => false
  | .sigCheck => true
  | .chunkEmit => true
  | .chunkParse => true
  | .chunkSplit => true

/-- The commands that write a destination range (40_command_execution.md R164). -/
def writesDest : Instr → Bool
  | .nop => false
  | .crcInit => false
  | .crcUpdate => false
  | .crcUpdateImm _ => false
  | .crc32 => false
  | .adlerInit => false
  | .adlerUpdate => false
  | .adlerUpdateImm _ => false
  | .adler32 => false
  | .zwrap => true
  | .zunwrap => true
  | .zframe => true
  | .zstrip => true
  | .sigEmit => true
  | .sigCheck => false
  | .chunkEmit => true
  | .chunkParse => false
  | .chunkSplit => true

/-- The source bytes `MemRead(SRC, LEN)`. -/
def State.source (s : State) : Bytes := s.memRead s.opr.src.toNat s.opr.len.toNat

/-- Check 2 of 40_command_execution.md R163: `SRC + LEN > BUF_BYTES`, over the naturals (00_scope.md R15). -/
def State.srcCheck (s : State) : Check :=
  ⟨decide (s.bufBytes < s.opr.src.toNat + s.opr.len.toNat), .srcRange⟩

/-- Check 3 of 40_command_execution.md R163: `DST + DCAP > BUF_BYTES`. -/
def State.dstCheck (s : State) : Check :=
  ⟨decide (s.bufBytes < s.opr.dst.toNat + s.opr.dcap.toNat), .dstRange⟩

/-- Check 4 of 40_command_execution.md R163: `CEIL = 0`. -/
def State.ceilCheck (s : State) : Check := ⟨decide (s.opr.ceil = 0), .param⟩

/-- The ranges overlap (40_command_execution.md R165). -/
def State.overlaps (s : State) : Bool :=
  decide (0 < s.opr.len.toNat ∧ 0 < s.opr.dcap.toNat
    ∧ s.opr.src.toNat < s.opr.dst.toNat + s.opr.dcap.toNat
    ∧ s.opr.dst.toNat < s.opr.src.toNat + s.opr.len.toNat)

/-- Check 5 of 40_command_execution.md R163. -/
def State.overlapCheck (s : State) : Check := ⟨s.overlaps, .overlap⟩

/-- Check 7 of 40_command_execution.md R163, for an output of `n` bytes known before the body (R166). -/
def State.capCheck (s : State) (n : Nat) : Check := ⟨decide (s.opr.dcap.toNat < n), .overflow⟩

/-- Check 6 of ZUNWRAP and ZSTRIP (42_zlib.md R235, R250). -/
def State.ztruncCheck (s : State) : Check := ⟨decide (s.opr.len.toNat < 6), .ztrunc⟩

/-- The error of the first failing check (40_command_execution.md R163, 60_exceptions.md R305). -/
def firstError : List Check → Option CmdError
  | [] => none
  | c :: cs => if c.fails then some c.error else firstError cs

/-- The checks in order, then the body (40_command_execution.md R163). -/
def guarded (s : State) (checks : List Check) (body : State) : Host.Outcome State Fault Refusal :=
  match firstError checks with
  | some e => .next (s.raise e)
  | none => .next body

end Sys2Proof.Machine
end

