-- ==== Sys2Proof/Machine/Checksum.lean ====
section
/-! DEFINITION. The checksum commands (41_checksum.md). -/

namespace Sys2Proof.Machine

/-- CRC_INIT (41_checksum.md R193). -/
def execCrcInit (s : State) : Host.Outcome State Fault Refusal :=
  guarded s [] { s with crcState := Config.crcInit }.finish

/-- CRC_UPDATE (41_checksum.md R194). -/
def execCrcUpdate (s : State) : Host.Outcome State Fault Refusal :=
  guarded s [s.srcCheck] { s with crcState := crcFold s.crcState s.source }.finish

/-- CRC_UPDATE_IMM (41_checksum.md R195). -/
def execCrcUpdateImm (imm8 : Byte) (s : State) : Host.Outcome State Fault Refusal :=
  guarded s [] { s with crcState := crcStep s.crcState imm8 }.finish

/-- CRC32 (41_checksum.md R196). -/
def execCrc32 (s : State) : Host.Outcome State Fault Refusal :=
  guarded s [s.srcCheck] { s with crcState := crcFold Config.crcInit s.source }.finish

/-- ADLER_INIT (41_checksum.md R201). -/
def execAdlerInit (s : State) : Host.Outcome State Fault Refusal :=
  guarded s [] { s with adler := Config.adlerInit }.finish

/-- ADLER_UPDATE (41_checksum.md R202). -/
def execAdlerUpdate (s : State) : Host.Outcome State Fault Refusal :=
  guarded s [s.srcCheck] { s with adler := adlerFold s.adler s.source }.finish

/-- ADLER_UPDATE_IMM (41_checksum.md R203). -/
def execAdlerUpdateImm (imm8 : Byte) (s : State) : Host.Outcome State Fault Refusal :=
  guarded s [] { s with adler := adlerStep s.adler imm8 }.finish

/-- ADLER32 (41_checksum.md R204). -/
def execAdler32 (s : State) : Host.Outcome State Fault Refusal :=
  guarded s [s.srcCheck] { s with adler := adler32 s.source }.finish

end Sys2Proof.Machine
end

