-- ==== Sys2Proof/Machine/Control.lean ====
section
/-! DEFINITION. The control family: NOP (40_command_execution.md R180). -/

namespace Sys2Proof.Machine

/-- NOP (40_command_execution.md R180): no state change but the successful end. -/
def execNop (s : State) : Host.Outcome State Fault Refusal := guarded s [] s.finish

end Sys2Proof.Machine
end

