-- ==== Sys2Proof/Machine/Framer.lean ====
section
/-! DEFINITION. The chunk framer commands (43_framer.md). Their CRCs are computed apart from CRC_STATE (R260). -/

namespace Sys2Proof.Machine

/-- SIG_EMIT (43_framer.md R261). -/
def execSigEmit (s : State) : Host.Outcome State Fault Refusal :=
  guarded s [s.dstCheck, s.capCheck 8] (s.emit s.sig).finish

/-- SIG_CHECK's input checks (43_framer.md R265): fewer than 8 bytes, then bytes that differ from SIG. -/
def State.sigShortCheck (s : State) : Check := ⟨decide (s.opr.len.toNat < 8), .format⟩
def State.sigDiffersCheck (s : State) : Check :=
  ⟨decide (s.memRead s.opr.src.toNat 8 ≠ s.sig), .format⟩

/-- SIG_CHECK (43_framer.md R265). -/
def execSigCheck (s : State) : Host.Outcome State Fault Refusal :=
  guarded s [s.srcCheck, s.sigShortCheck, s.sigDiffersCheck] (s.setOut s.opr.src 8).finish

/-- One chunk (30_encoding.md R130, R131): length, tag, payload, CRC over tag and payload. -/
def chunkBytes (tag : Word) (payload : Bytes) : Bytes :=
  be32 (BitVec.ofNat 32 payload.length) ++ be32 tag ++ payload ++ be32 (crc32 (be32 tag ++ payload))

/-- CHUNK_EMIT (43_framer.md R270). -/
def execChunkEmit (s : State) : Host.Outcome State Fault Refusal :=
  guarded s [s.srcCheck, s.dstCheck, s.overlapCheck, s.capCheck (s.opr.len.toNat + 12)]
    (s.emit (chunkBytes s.opr.type s.source)).finish

/-- The length field of the chunk at SRC (43_framer.md R275). -/
def State.chunkLen (s : State) : Nat := (beword (s.memRead s.opr.src.toNat 4)).toNat

/-- CHUNK_PARSE's input checks (43_framer.md R275): fewer than 12 bytes, then a payload that runs past LEN. -/
def State.chunkShortCheck (s : State) : Check := ⟨decide (s.opr.len.toNat < 12), .ctrunc⟩
def State.chunkRunsPastCheck (s : State) : Check :=
  ⟨decide (s.opr.len.toNat < 12 + s.chunkLen), .ctrunc⟩

/-- CHUNK_PARSE's result registers and CRC_OK (43_framer.md R275). -/
def State.recordChunk (s : State) : State :=
  let src := s.opr.src.toNat
  let n := s.chunkLen
  let tag := s.memRead (src + 4) 4
  let payload := s.memRead (src + 8) n
  let stored := beword (s.memRead (src + 8 + n) 4)
  let computed := crc32 (tag ++ payload)
  { s with
    res :=
      { s.res with
        chLen := BitVec.ofNat 32 n
        chType := beword tag
        chCrc := stored
        chCrcCalc := computed
        chKind := chunkKind (beword tag) }
    status := { s.status with crcOk := decide (stored = computed) } }

/-- CHUNK_PARSE (43_framer.md R275). -/
def execChunkParse (s : State) : Host.Outcome State Fault Refusal :=
  guarded s [s.srcCheck, s.chunkShortCheck, s.chunkRunsPastCheck]
    (s.recordChunk.setOut s.opr.src (12 + s.chunkLen)).finish

/-- The number of chunks `⌈len / ceil⌉` (43_framer.md R285, 40_command_execution.md R166). -/
def splitCount (len ceil : Nat) : Nat := (len + ceil - 1) / ceil

/-- Part `k` of the stream (43_framer.md R285). -/
def splitPart (c : Bytes) (ceil k : Nat) : Bytes := slice c (k * ceil) (min ((k + 1) * ceil) c.length)

/-- What CHUNK_SPLIT writes (43_framer.md R285). -/
def splitBytes (tag : Word) (c : Bytes) (ceil : Nat) : Bytes :=
  ((List.range (splitCount c.length ceil)).map (fun k => chunkBytes tag (splitPart c ceil k))).flatten

/-- CHUNK_SPLIT (43_framer.md R285). -/
def execChunkSplit (s : State) : Host.Outcome State Fault Refusal :=
  let n := splitCount s.opr.len.toNat s.opr.ceil.toNat
  let t := s.emit (splitBytes s.opr.type s.source s.opr.ceil.toNat)
  guarded s
    [s.srcCheck, s.dstCheck, s.ceilCheck, s.overlapCheck, s.capCheck (s.opr.len.toNat + 12 * n)]
    { t with res := { t.res with chunkCnt := BitVec.ofNat 32 n } }.finish

end Sys2Proof.Machine
end

