-- ==== Sys2Proof/Machine/Zlib.lean ====
section
/-! DEFINITION. The zlib wrapper commands (42_zlib.md). ZWRAP and ZUNWRAP are written for any lawful transform, and run with
the hardware's (00_scope.md R12). -/

namespace Sys2Proof.Machine

/-- A zlib stream (30_encoding.md R135): header bytes, DEFLATE payload, big-endian trailer. -/
def zlibStream (hdr : BitVec 16) (payload : Bytes) (trailer : Word) : Bytes :=
  zhdrBytes hdr ++ payload ++ be32 trailer

/-- The header of a stream that was read, recorded in ZHDR_IN, and its trailer, recorded in ZTRAILER (42_zlib.md R235, R250). -/
def State.recordStream (s : State) (stream : Bytes) : State :=
  { s with res :=
      { s.res with
        zhdrIn := zhdrOf stream
        ztrailer := beword (stream.drop (stream.length - 4)) } }

/-- A mid-operation error (40_command_execution.md R171): the destination range unspecified, then the error end. -/
def State.midError (s : State) (e : CmdError) : State :=
  (s.undefinedBytes s.opr.dst.toNat s.opr.dcap.toNat).raise e

/-- What ZWRAP writes (42_zlib.md R231). -/
def zwrapOutput (T : Config.Transform) (s : State) : Bytes :=
  zlibStream s.opr.zhdrOut (T.deflate s.source) (adler32 s.source)

/-- ZWRAP's body (42_zlib.md R231). -/
def zwrapBody (T : Config.Transform) (s : State) : State :=
  if s.opr.dcap.toNat < (zwrapOutput T s).length then s.midError .overflow
  else (s.emit (zwrapOutput T s)).finish

/-- ZWRAP with the transform `T` (42_zlib.md R231). -/
def execZwrapWith (T : Config.Transform) (s : State) : Host.Outcome State Fault Refusal :=
  guarded s [s.srcCheck, s.dstCheck, s.overlapCheck] (zwrapBody T s)

/-- ZWRAP (42_zlib.md R231). -/
def execZwrap (s : State) : Host.Outcome State Fault Refusal := execZwrapWith Config.transform s

/-- The DEFLATE payload of a stream: all but 2 header and 4 trailer bytes (42_zlib.md R230). -/
def zlibPayload (stream : Bytes) : Bytes := slice stream 2 (stream.length - 4)

/-- ZUNWRAP's result registers and ZTRL_OK for raw bytes `r` (42_zlib.md R235, R237). -/
def State.recordUnwrap (s : State) (stream r : Bytes) : State :=
  let t := s.recordStream stream
  { t with
    res := { t.res with zadlerCalc := adler32 r }
    status := { t.status with ztrlOk := decide (t.res.ztrailer = adler32 r) } }

/-- ZUNWRAP's body (42_zlib.md R235). -/
def zunwrapBody (T : Config.Transform) (s : State) : State :=
  match T.inflate (zlibPayload s.source) with
  | none => s.midError .inflate
  | some r =>
    if s.opr.dcap.toNat < r.length then s.midError .overflow
    else ((s.emit r).recordUnwrap s.source r).finish

/-- ZUNWRAP with the transform `T` (42_zlib.md R235). -/
def execZunwrapWith (T : Config.Transform) (s : State) : Host.Outcome State Fault Refusal :=
  guarded s [s.srcCheck, s.dstCheck, s.overlapCheck, s.ztruncCheck] (zunwrapBody T s)

/-- ZUNWRAP (42_zlib.md R235). -/
def execZunwrap (s : State) : Host.Outcome State Fault Refusal := execZunwrapWith Config.transform s

/-- ZFRAME (42_zlib.md R245). -/
def execZframe (s : State) : Host.Outcome State Fault Refusal :=
  guarded s [s.srcCheck, s.dstCheck, s.overlapCheck, s.capCheck (s.opr.len.toNat + 6)]
    (s.emit (zlibStream s.opr.zhdrOut s.source s.adler)).finish

/-- ZSTRIP (42_zlib.md R250). -/
def execZstrip (s : State) : Host.Outcome State Fault Refusal :=
  guarded s [s.srcCheck, s.dstCheck, s.overlapCheck, s.ztruncCheck, s.capCheck (s.opr.len.toNat - 6)]
    ((s.emit (zlibPayload s.source)).recordStream s.source).finish

end Sys2Proof.Machine
end

