-- ==== Sys2Proof/Machine/Dispatch.lean ====
section
/-! DEFINITION. The command step's `exec` (40_command_execution.md R162): one arm per command. -/

namespace Sys2Proof.Machine

def exec (i : Instr) (s : State) : Host.Outcome State Fault Refusal :=
  match i with
  -- control (40_command_execution.md)
  | .nop => Sys2Proof.Machine.execNop s
  -- checksum (41_checksum.md)
  | .crcInit => Sys2Proof.Machine.execCrcInit s
  | .crcUpdate => Sys2Proof.Machine.execCrcUpdate s
  | .crcUpdateImm imm8 => Sys2Proof.Machine.execCrcUpdateImm imm8 s
  | .crc32 => Sys2Proof.Machine.execCrc32 s
  | .adlerInit => Sys2Proof.Machine.execAdlerInit s
  | .adlerUpdate => Sys2Proof.Machine.execAdlerUpdate s
  | .adlerUpdateImm imm8 => Sys2Proof.Machine.execAdlerUpdateImm imm8 s
  | .adler32 => Sys2Proof.Machine.execAdler32 s
  -- zlib wrapper (42_zlib.md)
  | .zwrap => Sys2Proof.Machine.execZwrap s
  | .zunwrap => Sys2Proof.Machine.execZunwrap s
  | .zframe => Sys2Proof.Machine.execZframe s
  | .zstrip => Sys2Proof.Machine.execZstrip s
  -- chunk framer (43_framer.md)
  | .sigEmit => Sys2Proof.Machine.execSigEmit s
  | .sigCheck => Sys2Proof.Machine.execSigCheck s
  | .chunkEmit => Sys2Proof.Machine.execChunkEmit s
  | .chunkParse => Sys2Proof.Machine.execChunkParse s
  | .chunkSplit => Sys2Proof.Machine.execChunkSplit s

end Sys2Proof.Machine
end

