-- ==== Sys2Proof/Machine/HostBus.lean ====
section
/-! DEFINITION. The host's side: the register map (10_state.md R30), host accesses (20_memory.md R80–R88), soft reset
(70_reset_and_hazards.md R342), and arrivals from outside. -/

namespace Sys2Proof.Machine

/-- The register map (10_state.md R30): the offsets that carry a register. -/
def regMap : List (Nat × Reg) :=
  [ (0x000, .id), (0x004, .ctrl), (0x008, .status), (0x00C, .cmd), (0x010, .src), (0x014, .len),
    (0x018, .dst), (0x01C, .dcap), (0x020, .type), (0x024, .ceil), (0x028, .zhdrOut), (0x030, .crcState),
    (0x034, .crcValue), (0x038, .adler), (0x040, .outlen), (0x044, .next), (0x048, .chLen), (0x04C, .chType),
    (0x050, .chCrc), (0x054, .chCrcCalc), (0x058, .chKind), (0x05C, .chunkCnt), (0x060, .zhdrIn),
    (0x064, .ztrailer), (0x068, .zadlerCalc), (0x070, .sigHi), (0x074, .sigLo), (0x078, .bufsize) ]

/-- The register at a register-space offset (10_state.md R30); none at the reserved offsets (R66). -/
def regAt (off : Nat) : Option Reg := regMap.lookup off

/-- A register as the host reads it (10_state.md R31–R65). -/
def State.readReg (s : State) : Reg → Word
  | .id => Config.idValue
  | .ctrl => s.ctrlWord
  | .status => s.statusWord
  | .cmd => 0
  | .src => s.opr.src
  | .len => s.opr.len
  | .dst => s.opr.dst
  | .dcap => s.opr.dcap
  | .type => s.opr.type
  | .ceil => s.opr.ceil
  | .zhdrOut => s.opr.zhdrOut.setWidth 32
  | .crcState => s.crcState
  | .crcValue => crcFinal s.crcState
  | .adler => s.adler
  | .outlen => s.res.outlen
  | .next => s.res.next
  | .chLen => s.res.chLen
  | .chType => s.res.chType
  | .chCrc => s.res.chCrc
  | .chCrcCalc => s.res.chCrcCalc
  | .chKind => s.res.chKind.setWidth 32
  | .chunkCnt => s.res.chunkCnt
  | .zhdrIn => s.res.zhdrIn.setWidth 32
  | .ztrailer => s.res.ztrailer
  | .zadlerCalc => s.res.zadlerCalc
  | .sigHi => beword s.sig
  | .sigLo => beword (s.sig.drop 4)
  | .bufsize => BitVec.ofNat 32 s.bufBytes

/-- What a soft reset leaves of BUF (70_reset_and_hazards.md R342): a pending command that writes a destination range leaves
`BUF[DST .. min(DST + DCAP, BUF_BYTES))` unspecified; otherwise BUF keeps its contents. Log 5. -/
def State.dropPending (s : State) : State :=
  match s.eng with
  | .idle => s
  | .pending w =>
    match decode w with
    | .illegal _ => s
    | .cmd i =>
      if writesDest i then
        s.undefinedBytes s.opr.dst.toNat
          (min (s.opr.dst.toNat + s.opr.dcap.toNat) s.bufBytes - s.opr.dst.toNat)
      else s

/-- Soft reset (70_reset_and_hazards.md R342). -/
def State.softReset (s : State) : State := s.dropPending.resetRegs

/-- A host write to CTRL (10_state.md R32–R34): bit 1 resets and bit 0 is then not stored; else bit 0 goes to IE. -/
def State.writeCtrl (s : State) (v : Word) : State :=
  if v.getLsbD 1 then s.softReset else { s with ie := v.getLsbD 0 }

/-- A 32-bit host write to a register (10_state.md R31–R65). Read-only registers ignore it. -/
def State.writeReg (s : State) (r : Reg) (v : Word) : State :=
  match r with
  | .id => s
  | .ctrl => s.writeCtrl v
  | .status => s.acknowledge v
  | .cmd => s.issue v
  | .src => { s with opr := { s.opr with src := v } }
  | .len => { s with opr := { s.opr with len := v } }
  | .dst => { s with opr := { s.opr with dst := v } }
  | .dcap => { s with opr := { s.opr with dcap := v } }
  | .type => { s with opr := { s.opr with type := v } }
  | .ceil => { s with opr := { s.opr with ceil := v } }
  | .zhdrOut => { s with opr := { s.opr with zhdrOut := v.setWidth 16 } }
  | .crcState => { s with crcState := v }
  | .crcValue => s
  | .adler => { s with adler := v }
  | .outlen => s
  | .next => s
  | .chLen => s
  | .chType => s
  | .chCrc => s
  | .chCrcCalc => s
  | .chKind => s
  | .chunkCnt => s
  | .zhdrIn => s
  | .ztrailer => s
  | .zadlerCalc => s
  | .sigHi => s
  | .sigLo => s
  | .bufsize => s

/-- The size of an access in bytes (00_scope.md R7). -/
def AccessSize.bytes : AccessSize → Nat
  | .byte => 1
  | .half => 2
  | .word => 4

/-- The first offset of the buffer window (20_memory.md R80). -/
def windowBase : Nat := 0x10000

/-- What an access reaches in a block whose BUF has `bufBytes` bytes (20_memory.md R80–R84; 10_state.md R66). -/
def HostAccess.target (a : HostAccess) (bufBytes : Nat) : Target :=
  let off := a.off.toNat
  let n := a.size.bytes
  if off < windowBase then
    if n = 4 ∧ off % 4 = 0 then
      match regAt off with
      | some r => .register r
      | none => .reserved
    else .busError
  else if off % n = 0 ∧ off - windowBase + n ≤ bufBytes then .buffer (off - windowBase)
  else .busError

/-- A host read (20_memory.md R81–R85, R93): the response, with no effect on the block. The data of a bus error is a draw
(log 6). -/
def State.performRead (s : State) (t : Target) (n : Nat) : State :=
  match t with
  | .register r => { s with rsp := some (.readOk (s.readReg r)) }
  | .reserved => { s with rsp := some (.readOk 0) }
  | .buffer a => { s with rsp := some (.readOk (leWord (s.memRead a n))) }
  | .busError => { s with rsp := some (.readError (Config.readErrorDraw s.draws)), draws := s.draws + 1 }

/-- A host write (20_memory.md R81–R85, R93). -/
def State.performWrite (s : State) (t : Target) (n : Nat) (v : Word) : State :=
  match t with
  | .register r => { s.writeReg r v with rsp := some .writeOk }
  | .reserved => { s with rsp := some .writeOk }
  | .buffer a => { s.memWrite a (leBytes n v) with rsp := some .writeOk }
  | .busError => { s with rsp := some .writeError }

/-- A host access, performed as one event (20_memory.md R92). -/
def State.perform (s : State) (a : HostAccess) : State :=
  match a.op with
  | .read => s.performRead (a.target s.bufBytes) a.size.bytes
  | .write v => s.performWrite (a.target s.bufBytes) a.size.bytes v

/-- An access the bus holds while the engine is PENDING: at any offset but those of ID, CTRL and STATUS (20_memory.md R87,
R88; log 16). -/
def HostAccess.holdable (a : HostAccess) : Bool :=
  !(decide (a.off = 0x000) || decide (a.off = 0x004) || decide (a.off = 0x008))

/-- The bus is shown wait (20_memory.md R87): the engine is PENDING, or earlier accesses are still held. -/
def State.busWaits (s : State) : Bool := s.busy || !s.held.isEmpty

/-- An event from outside reaches the block (20_memory.md R87, R88; 70_reset_and_hazards.md R340; log 7). -/
def State.arrive (s : State) (e : Event) : State :=
  match e with
  | .powerOnReset => s.powerOn
  | .access a =>
    if a.holdable && s.busWaits then { s with held := s.held ++ [a] }
    else s.perform a

end Sys2Proof.Machine
end

