-- ==== Sys2Proof/Machine/Fetch.lean ====
section
/-! DEFINITION. Between `exec` and `step`: the command step of a PENDING engine (40_command_execution.md R162) and the move the
block makes when nothing arrives from outside (20_memory.md R87, R96; 70_reset_and_hazards.md R360). -/

namespace Sys2Proof.Machine

/-- The command step (40_command_execution.md R162): the command word decoded and executed; a word that does not decode ends
with E_ILLEGAL (30_encoding.md R115). -/
def State.commandStep (s : State) (w : Word) : Host.Outcome State Fault Refusal :=
  match decode w with
  | .cmd i => exec i s
  | .illegal _ => .next (s.raise .illegal)

/-- The block's own move: PENDING, the command step; IDLE, the first access the bus holds is performed (20_memory.md R87);
IDLE with none held, the block waits (70_reset_and_hazards.md R344; log 11). -/
def State.blockMove (s : State) : Host.Outcome State Fault Refusal :=
  match s.eng with
  | .pending w => s.commandStep w
  | .idle =>
    match s.held with
    | [] => .next s
    | a :: as => .next (State.perform { s with held := as } a)

/-- One step: an arrival that is due reaches the block, else the block moves and the first arrival comes nearer (log 7). -/
def State.advance (s : State) : Host.Outcome State Fault Refusal :=
  match s.arrivals with
  | [] => s.blockMove
  | e :: es =>
    match e.delay with
    | 0 => .next (State.arrive { s with arrivals := es } e.event)
    | d + 1 => State.blockMove { s with arrivals := { e with delay := d } :: es }

/-- The first arrival put off until after the block's next move. -/
def State.putOff (s : State) : State :=
  match s.arrivals with
  | [] => s
  | e :: es =>
    match e.delay with
    | 0 => { s with arrivals := { e with delay := 1 } :: es }
    | _ + 1 => s

/-- The command word `w` issued (40_command_execution.md R161), so that the very next step is its command step. Log 12. -/
def State.loadCommand (s : State) (w : Word) : State := (s.issue w).putOff

end Sys2Proof.Machine
end

