-- ==== Sys2Proof/Machine/Step.lean ====
section
/-! DEFINITION. One step of the machine, and a command word placed where the next step takes it from. -/

namespace Sys2Proof.Machine

/-- One step (20_memory.md R96, 40_command_execution.md R162): total, every step answers a next state. -/
def step (s : State) : Host.Outcome State Fault Refusal := s.advance

/-- `s` with the command word numbered as the opcode table numbers it issued to the engine. A word of more than 32 bits is no
command word: the state stays. Logs 11, 12, 23. -/
def State.withFetchWord (s : State) (nbits w : Nat) : State :=
  match tableWord nbits w with
  | some v => s.loadCommand v
  | none => s

end Sys2Proof.Machine
end

