-- ==== Sys2Proof/Safety.lean ====
section
/-! DEFINITION. What a safe run is, and the terms the statements use: the legal states, the two ends of a command in the spec's
own words, ranges, frames over BUF bytes, and the host's parsing loop (43_framer.md R280). -/

namespace Sys2Proof.Machine

/-- The codes ERRCODE can hold while ERR = 1 (60_exceptions.md R300). -/
def errorCodes : List Byte := [0x01, 0x02, 0x03, 0x04, 0x05, 0x06, 0x10, 0x20, 0x21, 0x22]

/-- A legal state: what every step keeps. -/
structure State.Inv (s : State) : Prop where
  /-- BUF_BYTES is legal (00_scope.md R8; that it is at most 65536 is its type's). -/
  bufLegal : Config.bufBytesMin ≤ s.bufBytes
  /-- BUF's entries rise strictly (the memory's one form). -/
  bufForm : s.buf.wf
  /-- BUF has BUF_BYTES bytes (10_state.md R67). -/
  bufBound : ∀ c ∈ s.buf, c.1 < s.bufBytes
  /-- At most one of DONE and ERR is 1 (10_state.md R37). -/
  oneEnd : ¬(s.status.done = true ∧ s.status.err = true)
  /-- ERRCODE is 0 while ERR = 0 (10_state.md R38), else a code of 60_exceptions.md R300. -/
  code : if s.status.err = true then s.status.errcode ∈ errorCodes else s.status.errcode = 0
  /-- While a command is pending, DONE = ERR = 0 (40_command_execution.md R161). -/
  pendingClear : s.busy = true → s.status.done = false ∧ s.status.err = false
  /-- The bus holds no access to ID, CTRL or STATUS (20_memory.md R88). -/
  heldHoldable : ∀ a ∈ s.held, a.holdable = true
  /-- The draw behind BUF's contents is a used one (the model's own field, log 4). -/
  drawUsed : s.bufEpoch < s.draws

/-- A step is safe when it answers a next state and that state is legal. -/
def State.SafeStep (s : State) : Prop := ∃ t, step s = .next t ∧ t.Inv

/-- The state after a command that ends without error and does nothing else (40_command_execution.md R162, R169). -/
def State.endedOk (s : State) : State :=
  { s with eng := .idle, status := { s.status with done := true, err := false, errcode := 0x00 } }

/-- The state after a command that ends with the error code `code` and does nothing else (40_command_execution.md R162, R170). -/
def State.endedWith (s : State) (code : Byte) : State :=
  { s with eng := .idle, status := { s.status with done := false, err := true, errcode := code } }

/-- `SRC + LEN ≤ BUF_BYTES` (40_command_execution.md R164). -/
abbrev State.SrcInRange (s : State) : Prop := s.opr.src.toNat + s.opr.len.toNat ≤ s.bufBytes

/-- `DST + DCAP ≤ BUF_BYTES` (40_command_execution.md R164). -/
abbrev State.DstInRange (s : State) : Prop := s.opr.dst.toNat + s.opr.dcap.toNat ≤ s.bufBytes

/-- The source and destination ranges do not overlap (40_command_execution.md R165): one is empty, or one ends before the other
begins. -/
abbrev State.Apart (s : State) : Prop :=
  s.opr.len.toNat = 0 ∨ s.opr.dcap.toNat = 0
    ∨ s.opr.dst.toNat + s.opr.dcap.toNat ≤ s.opr.src.toNat
    ∨ s.opr.src.toNat + s.opr.len.toNat ≤ s.opr.dst.toNat

/-- Every byte of BUF outside `[a, a+n)` reads as before (40_command_execution.md R167). -/
def bufSameOutside (s t : State) (a n : Nat) : Prop := ∀ c, c < a ∨ a + n ≤ c → t.bufByte c = s.bufByte c

/-- Every byte of BUF reads as before. -/
def bufSame (s t : State) : Prop := ∀ c, t.bufByte c = s.bufByte c

/-- `t` is `s` after a command that ended without error, wrote `out` at DST, set OUTLEN and NEXT, and changed nothing else but
the other result registers, which are `res` (40_command_execution.md R167–R169; 10_state.md R53, R54). -/
def emitted (s t : State) (out : Bytes) (res : Results) : Prop :=
  t = { s.endedOk with
        res := { res with
          outlen := BitVec.ofNat 32 out.length
          next := BitVec.ofNat 32 (s.opr.dst.toNat + out.length) }
        buf := t.buf }
  ∧ t.memRead s.opr.dst.toNat out.length = out
  ∧ bufSameOutside s t s.opr.dst.toNat out.length

/-- `t` is `s` after a mid-operation error (40_command_execution.md R171): the error end; registers as before; BUF as before but
for the destination range, whose bytes may be anything. -/
def midFailed (s t : State) (code : Byte) : Prop :=
  t = { s.endedWith code with buf := t.buf, draws := t.draws }
  ∧ bufSameOutside s t s.opr.dst.toNat s.opr.dcap.toNat

/-- No event is due before the block's next move. -/
def State.NoneDue (s : State) : Prop := ∀ e es, s.arrivals = e :: es → 0 < e.delay

/-- `s` with the first event to come one move nearer. -/
def State.ticked (s : State) : State :=
  match s.arrivals with
  | [] => s
  | e :: es => { s with arrivals := { e with delay := e.delay - 1 } :: es }

/-- The result registers each command writes when it ends without error (30_encoding.md R113); CRC_VALUE goes with CRC_STATE
(10_state.md R51). -/
def resultRegs : Instr → List Reg
  | .nop => []
  | .crcInit => [.crcState, .crcValue]
  | .crcUpdate => [.crcState, .crcValue]
  | .crcUpdateImm _ => [.crcState, .crcValue]
  | .crc32 => [.crcState, .crcValue]
  | .adlerInit => [.adler]
  | .adlerUpdate => [.adler]
  | .adlerUpdateImm _ => [.adler]
  | .adler32 => [.adler]
  | .zwrap => [.outlen, .next]
  | .zunwrap => [.outlen, .next, .zhdrIn, .ztrailer, .zadlerCalc]
  | .zframe => [.outlen, .next]
  | .zstrip => [.outlen, .next, .zhdrIn, .ztrailer]
  | .sigEmit => [.outlen, .next]
  | .sigCheck => [.outlen, .next]
  | .chunkEmit => [.outlen, .next]
  | .chunkParse => [.outlen, .next, .chLen, .chType, .chCrc, .chCrcCalc, .chKind]
  | .chunkSplit => [.outlen, .next, .chunkCnt]

/-- The error codes each command can end with (60_exceptions.md R302); E_ILLEGAL belongs to words that do not decode. -/
def errorsOf : Instr → List Byte
  | .nop => []
  | .crcInit => []
  | .crcUpdate => [0x02]
  | .crcUpdateImm _ => []
  | .crc32 => [0x02]
  | .adlerInit => []
  | .adlerUpdate => [0x02]
  | .adlerUpdateImm _ => []
  | .adler32 => [0x02]
  | .zwrap => [0x02, 0x03, 0x04, 0x05]
  | .zunwrap => [0x02, 0x03, 0x04, 0x20, 0x21, 0x05]
  | .zframe => [0x02, 0x03, 0x04, 0x05]
  | .zstrip => [0x02, 0x03, 0x04, 0x20, 0x05]
  | .sigEmit => [0x03, 0x05]
  | .sigCheck => [0x02, 0x10]
  | .chunkEmit => [0x02, 0x03, 0x04, 0x05]
  | .chunkParse => [0x02, 0x22]
  | .chunkSplit => [0x02, 0x03, 0x06, 0x04, 0x05]

/-- `OPS a, n` of a host program (30_encoding.md R141). -/
def State.withSource (s : State) (a n : Nat) : State :=
  { s with opr := { s.opr with src := BitVec.ofNat 32 a, len := BitVec.ofNat 32 n } }

/-- What the host collects of a parsed chunk (43_framer.md R280), with STATUS.CRC_OK. -/
structure ParsedChunk where
  tag : Word
  payloadAt : Nat
  len : Nat
  crcOk : Bool
deriving DecidableEq, Repr

/-- The host's loop over CHUNK_PARSE (43_framer.md R280) on the `rem` bytes from `a`, for at most `fuel` chunks: the chunks in
order, or none when a parse ends with an error or the fuel is spent. -/
def parseLoop : (fuel : Nat) → State → (a rem : Nat) → Option (List ParsedChunk)
  | _, _, _, 0 => some []
  | 0, _, _, _ + 1 => none
  | fuel + 1, s, a, rem + 1 =>
    match exec .chunkParse (s.withSource a (rem + 1)) with
    | .next t =>
      if t.status.err then none
      else
        match parseLoop fuel t t.res.next.toNat (a + (rem + 1) - t.res.next.toNat) with
        | none => none
        | some cs => some (⟨t.res.chType, t.res.next.toNat - t.res.outlen.toNat + 8, t.res.chLen.toNat, t.status.crcOk⟩ :: cs)
    | .fault _ => none
    | .refused _ => none

/-- `read_all` (43_framer.md R280): SIG_CHECK over the `n` bytes from `a`, then the loop from NEXT. -/
def readAll (fuel : Nat) (s : State) (a n : Nat) : Option (List ParsedChunk) :=
  match exec .sigCheck (s.withSource a n) with
  | .next t =>
    if t.status.err then none
    else parseLoop fuel t t.res.next.toNat (a + n - t.res.next.toNat)
  | .fault _ => none
  | .refused _ => none

end Sys2Proof.Machine
end

