-- ==== Sys2Proof/Certificates/Slice0/Obligations.lean ====
section
/-! DEFINITION. The statements for the provers. Each docstring names the rules of spec/ it formalises. -/

open Sys2Proof Sys2Proof.Machine

/-! ### Encoding -/

/-- 30_encoding.md R114, R116: the command word of every row, written out from the opcode map, and the worked examples. -/
def Obligations.DecodeOfSpecWords : Prop :=
  decode 0x00000000 = .cmd .nop ∧ decode 0x00000001 = .cmd .crcInit ∧ decode 0x00000002 = .cmd .crcUpdate
  ∧ decode 0x00004103 = .cmd (.crcUpdateImm 0x41) ∧ decode 0x00000004 = .cmd .crc32 ∧ decode 0x00000008 = .cmd .adlerInit
  ∧ decode 0x00000009 = .cmd .adlerUpdate ∧ decode 0x0000FF0A = .cmd (.adlerUpdateImm 0xFF)
  ∧ decode 0x0000000B = .cmd .adler32 ∧ decode 0x00000010 = .cmd .zwrap ∧ decode 0x00000011 = .cmd .zunwrap
  ∧ decode 0x00000012 = .cmd .zframe ∧ decode 0x00000013 = .cmd .zstrip ∧ decode 0x00000020 = .cmd .sigEmit
  ∧ decode 0x00000021 = .cmd .sigCheck ∧ decode 0x00000022 = .cmd .chunkEmit ∧ decode 0x00000023 = .cmd .chunkParse
  ∧ decode 0x00000024 = .cmd .chunkSplit
  ∧ decode 0x00000122 = .illegal .immNotAllowed ∧ decode 0x00010001 = .illegal .rsvNonzero
  ∧ decode 0x00000005 = .illegal .unassignedOpcode

/-- 30_encoding.md R116, with the fields cut out by division: the decoding function on every word. -/
def Obligations.DecodingFunction : Prop :=
  ∀ w : Word,
    let opc := w.toNat % 256
    let imm := w.toNat / 256 % 256
    let rsv := w.toNat / 65536
    let plain : List (Nat × Instr) :=
      [(0x00, .nop), (0x01, .crcInit), (0x02, .crcUpdate), (0x04, .crc32), (0x08, .adlerInit), (0x09, .adlerUpdate),
       (0x0B, .adler32), (0x10, .zwrap), (0x11, .zunwrap), (0x12, .zframe), (0x13, .zstrip), (0x20, .sigEmit),
       (0x21, .sigCheck), (0x22, .chunkEmit), (0x23, .chunkParse), (0x24, .chunkSplit)]
    (rsv ≠ 0 → ∃ why, decode w = .illegal why)
    ∧ (rsv = 0 → opc = 0x03 → decode w = .cmd (.crcUpdateImm (BitVec.ofNat 8 imm)))
    ∧ (rsv = 0 → opc = 0x0A → decode w = .cmd (.adlerUpdateImm (BitVec.ofNat 8 imm)))
    ∧ (rsv = 0 → imm = 0 → ∀ p ∈ plain, opc = p.1 → decode w = .cmd p.2)
    ∧ (rsv = 0 → opc ≠ 0x03 → opc ≠ 0x0A → imm ≠ 0 ∨ opc ∉ plain.map Prod.fst → ∃ why, decode w = .illegal why)

/-- Decode and encode agree (30_encoding.md R110–R116): a command decodes from its word, with IMM8 at every value, and a word
that decodes is the word of its command, so each command has one word. -/
def Obligations.DecodeEncodeAgree : Prop :=
  (∀ i : Instr, i.wellFormed = true → decode (encode i) = .cmd i)
  ∧ (∀ (w : Word) (i : Instr), decode w = .cmd i → encode i = w)

/-- 30_encoding.md R114: the match and mask pairs cover exactly the words that decode, and no word belongs to two rows. -/
def Obligations.OpcodeTableIsTheDecoder : Prop :=
  (∀ w : Word, wordWellFormed w = true ↔ ∃ i, decode w = .cmd i)
  ∧ (∀ (w : Word) (r₁ r₂ : OpcodeRow), r₁ ∈ opcodeTable → r₂ ∈ opcodeTable →
      r₁.covers w = true → r₂.covers w = true → r₁ = r₂)

/-- 30_encoding.md R115: an illegal command word, when executed, ends with E_ILLEGAL and changes no state but STATUS (and the
engine, which returns to IDLE by 40_command_execution.md R162). `NoneDue` and `ticked` are the model's arrivals (log 7). -/
def Obligations.IllegalWordEndsWithIllegal : Prop :=
  ∀ (s : State) (w : Word), s.eng = .pending w → s.NoneDue →
    (w.toNat % 256 ∉ [0x00, 0x01, 0x02, 0x03, 0x04, 0x08, 0x09, 0x0A, 0x0B, 0x10, 0x11, 0x12, 0x13, 0x20, 0x21, 0x22, 0x23, 0x24]
      ∨ w.toNat / 65536 ≠ 0
      ∨ (w.toNat % 256 ≠ 0x03 ∧ w.toNat % 256 ≠ 0x0A ∧ w.toNat / 256 % 256 ≠ 0)) →
    step s = .next (s.ticked.endedWith 0x01)

/-! ### The step -/

/-- 40_command_execution.md R162: while PENDING with a word that decodes, and no event due, the step is the command step: `exec`
of the decoded command; all the model adds is that the next event to come is one move nearer (log 7). -/
def Obligations.StepRunsDecodedCommand : Prop :=
  ∀ (s : State) (w : Word) (i : Instr), s.eng = .pending w → decode w = .cmd i → s.NoneDue →
    step s = exec i s.ticked

/-- An event that is due reaches the block before its next move (20_memory.md R96; the form of arrivals is the model's, log 7);
an IDLE block with nothing held and nothing to come waits (70_reset_and_hazards.md R344). -/
def Obligations.StepTakesDueEvents : Prop :=
  (∀ (s : State) (e : Event) (es : List Arrival), s.arrivals = ⟨0, e⟩ :: es →
    step s = .next (State.arrive { s with arrivals := es } e))
  ∧ (∀ s : State, s.eng = .idle → s.held = [] → s.arrivals = [] → step s = .next s)

/-- 20_memory.md R87: while PENDING, an access at an offset other than 0x000, 0x004, 0x008 is held and nothing else changes; once
the engine is IDLE the accesses held are performed in order, against the state then; a soft reset makes the engine IDLE and
drops none of them; an access that arrives at an IDLE block with none held, at any offset, is performed at once (R96). The
form of arrivals is the model's (log 7). -/
def Obligations.HeldWhilePending : Prop :=
  (∀ (s : State) (w : Word) (a : HostAccess) (es : List Arrival), s.eng = .pending w →
      s.arrivals = ⟨0, .access a⟩ :: es → a.off ≠ 0x000 → a.off ≠ 0x004 → a.off ≠ 0x008 →
      step s = .next { s with arrivals := es, held := s.held ++ [a] })
  ∧ (∀ (s : State) (a : HostAccess) (as : List HostAccess), s.eng = .idle → s.held = a :: as → s.NoneDue →
      step s = .next (State.perform { s.ticked with held := as } a))
  ∧ (∀ (s : State) (v : Word), v.getLsbD 1 = true →
      (s.writeCtrl v).eng = .idle ∧ (s.writeCtrl v).held = s.held)
  ∧ (∀ (s : State) (a : HostAccess) (es : List Arrival), s.eng = .idle → s.held = [] →
      s.arrivals = ⟨0, .access a⟩ :: es →
      step s = .next (State.perform { s with arrivals := es } a))

/-- 20_memory.md R88: accesses at 0x000, 0x004 and 0x008 are never held; so a STATUS read while a command is pending answers at
once, with BUSY = 1. The form of arrivals is the model's (log 7). -/
def Obligations.NeverHeldOffsets : Prop :=
  (∀ (s : State) (a : HostAccess) (es : List Arrival), s.arrivals = ⟨0, .access a⟩ :: es →
      a.off = 0x000 ∨ a.off = 0x004 ∨ a.off = 0x008 →
      step s = .next (State.perform { s with arrivals := es } a))
  ∧ (∀ (s : State) (w : Word) (es : List Arrival), s.eng = .pending w →
      s.arrivals = ⟨0, .access ⟨0x008, .word, .read⟩⟩ :: es →
      ∃ v, step s = .next { s with arrivals := es, rsp := some (.readOk v) } ∧ v.getLsbD 0 = true)

/-- No run stops: every number of steps from every state answers a next state (40_command_execution.md R162, R170; 20_memory.md
R85). -/
def Obligations.NoRunStops : Prop := ∀ (s : State) (k : Nat), ∃ t, Host.Core.run Sys2Proof.core k s = .next t

/-- 70_reset_and_hazards.md R361: a pending command ends, or is dropped by a reset, after at most one step more than there are
events to come (the events as a finite list are the model's, log 7; that the transform answers is assumed, log 14). -/
def Obligations.PendingCommandEnds : Prop :=
  ∀ (s : State) (w : Word), s.eng = .pending w →
    ∃ k, k ≤ s.arrivals.length + 1 ∧ ∃ t, Host.Core.run Sys2Proof.core k s = .next t ∧ t.eng = .idle

/-- Every legal state steps to a legal state: BUF_BYTES is in its range (00_scope.md R8), BUF keeps its form and its bounds, DONE
and ERR exclude each other, ERRCODE is 0 or a code of the table, a pending command has cleared flags, the bus holds only holdable
accesses (10_state.md R37, R38, R67; 40_command_execution.md R161; 20_memory.md R88), BUF's draw is a used one (log 4). -/
def Obligations.StepKeepsLegalStates : Prop := ∀ s t : State, s.Inv → step s = .next t → t.Inv

/-- The state after reset (70_reset_and_hazards.md R341; its model fields: logs 4, 7) is legal. -/
def Obligations.ResetIsLegal : Prop := State.reset.Inv

/-! ### The command cycle -/

/-- 40_command_execution.md R161: a CMD write issues; nothing else changes; `irq` is low after it. -/
def Obligations.IssueOfACommand : Prop :=
  ∀ (s : State) (w : Word),
    s.writeReg .cmd w =
      { s with eng := .pending w, status := { s.status with done := false, err := false, errcode := 0x00 } }
    ∧ (s.writeReg .cmd w).busy = true ∧ (s.writeReg .cmd w).irq = false
    ∧ (s.writeReg .cmd w).readReg .cmd = 0

/-- Every command completes in every state, with the engine IDLE and exactly one of DONE and ERR set (40_command_execution.md
R162, R169, R170). -/
def Obligations.EveryCommandEnds : Prop :=
  ∀ (i : Instr) (s : State), ∃ t, exec i s = .next t ∧ t.eng = .idle ∧ t.status.done = !t.status.err

/-- 40_command_execution.md R163, R164, R165, 60_exceptions.md R305: the first failing check gives the code. -/
def Obligations.ChecksInOrder : Prop :=
  ∀ (i : Instr) (s : State),
    (readsSource i = true → ¬s.SrcInRange → exec i s = .next (s.endedWith 0x02))
    ∧ (writesDest i = true → (readsSource i = true → s.SrcInRange) → ¬s.DstInRange → exec i s = .next (s.endedWith 0x03))
    ∧ (i = .chunkSplit → s.SrcInRange → s.DstInRange → s.opr.ceil = 0 → exec i s = .next (s.endedWith 0x06))
    ∧ (readsSource i = true → writesDest i = true → s.SrcInRange → s.DstInRange → (i = .chunkSplit → s.opr.ceil ≠ 0) →
        ¬s.Apart → exec i s = .next (s.endedWith 0x04))

/-- 60_exceptions.md R302: the errors each command can raise. -/
def Obligations.ErrorsPerCommand : Prop :=
  ∀ (i : Instr) (s t : State), exec i s = .next t → t.status.err = true → t.status.errcode ∈ errorsOf i

/-- 40_command_execution.md R168: an error end writes no register but STATUS, and in STATUS neither CRC_OK nor ZTRL_OK; a
successful end writes the command's result registers and STATUS only (30_encoding.md R113). -/
def Obligations.CommitOfRegisters : Prop :=
  ∀ (i : Instr) (s t : State) (r : Reg), exec i s = .next t → r ≠ .status →
    (t.status.err = true → t.readReg r = s.readReg r ∧ t.status.crcOk = s.status.crcOk ∧ t.status.ztrlOk = s.status.ztrlOk)
    ∧ (t.status.err = false → r ∉ resultRegs i → t.readReg r = s.readReg r)

/-- 40_command_execution.md R167: a command that ends without error changes no BUF byte outside `[DST, DST + OUTLEN)`, and one
that writes no destination range changes none at all. -/
def Obligations.WriteConfinement : Prop :=
  ∀ (i : Instr) (s t : State), exec i s = .next t → t.status.err = false →
    if writesDest i = true then t.res.outlen.toNat ≤ s.opr.dcap.toNat ∧ bufSameOutside s t s.opr.dst.toNat t.res.outlen.toNat
    else bufSame s t

/-- 40_command_execution.md R170, R171: an error leaves BUF unchanged, but for E_OVERFLOW of ZWRAP and ZUNWRAP and E_INFLATE of
ZUNWRAP, which may change the destination range and nothing outside it. -/
def Obligations.ErrorsAndBuf : Prop :=
  ∀ (i : Instr) (s t : State), exec i s = .next t → t.status.err = true →
    bufSame s t
    ∨ (((i = .zwrap ∧ t.status.errcode = 0x05) ∨ (i = .zunwrap ∧ (t.status.errcode = 0x05 ∨ t.status.errcode = 0x21)))
        ∧ bufSameOutside s t s.opr.dst.toNat s.opr.dcap.toNat)

/-- 40_command_execution.md R175: no command writes an operand register; R168: nor CTRL. Nor does one change the parameters
(00_scope.md R8, R9; logs 1, 2) or the model's own fields: BUF's power-on draw (log 4), the held accesses and the events to
come (log 7), the response last given (log 9). -/
def Obligations.CommandsKeepOperands : Prop :=
  ∀ (i : Instr) (s t : State), exec i s = .next t →
    t.opr = s.opr ∧ t.ie = s.ie ∧ t.par = s.par ∧ t.held = s.held ∧ t.arrivals = s.arrivals ∧ t.rsp = s.rsp
    ∧ t.bufEpoch = s.bufEpoch

/-- 10_state.md R39, R40: every command but a CHUNK_PARSE without error leaves CRC_OK, every command but a ZUNWRAP without error
leaves ZTRL_OK. -/
def Obligations.WhoWritesTheOkBits : Prop :=
  ∀ (i : Instr) (s t : State), exec i s = .next t →
    (i ≠ .chunkParse ∨ t.status.err = true → t.status.crcOk = s.status.crcOk)
    ∧ (i ≠ .zunwrap ∨ t.status.err = true → t.status.ztrlOk = s.status.ztrlOk)

/-- 43_framer.md R260, 10_state.md R50, R52: the framer and the wrapper compute their checksums on datapaths of their own. A framer
command neither reads nor writes CRC_STATE, ZWRAP and ZUNWRAP neither read nor write ADLER: started with any other value there,
the command ends the same in all else. -/
def Obligations.PrivateDatapaths : Prop :=
  (∀ (i : Instr) (s t : State) (v : Word),
    i ∈ [Instr.sigEmit, .sigCheck, .chunkEmit, .chunkParse, .chunkSplit] → exec i s = .next t →
    t.crcState = s.crcState ∧ exec i { s with crcState := v } = .next { t with crcState := v })
  ∧ (∀ (i : Instr) (s t : State) (v : Word), i ∈ [Instr.zwrap, .zunwrap] → exec i s = .next t →
    t.adler = s.adler ∧ exec i { s with adler := v } = .next { t with adler := v })

/-! ### Commands -/

/-- 40_command_execution.md R180. -/
def Obligations.NopRule : Prop :=
  encode .nop = 0x00000000 ∧ ∀ s : State, exec .nop s = .next s.endedOk

/-- 41_checksum.md R193, R201. -/
def Obligations.InitCommands : Prop :=
  encode .crcInit = 0x00000001 ∧ encode .adlerInit = 0x00000008
  ∧ ∀ s : State,
      exec .crcInit s = .next { s.endedOk with crcState := 0xFFFFFFFF }
      ∧ exec .adlerInit s = .next { s.endedOk with adler := 0x00000001 }

/-- 41_checksum.md R195, R203, for every IMM8. -/
def Obligations.ImmediateUpdates : Prop :=
  ∀ (s : State) (x : Byte),
    encode (.crcUpdateImm x) = BitVec.ofNat 32 (x.toNat * 256 + 0x03)
    ∧ encode (.adlerUpdateImm x) = BitVec.ofNat 32 (x.toNat * 256 + 0x0A)
    ∧ exec (.crcUpdateImm x) s = .next { s.endedOk with crcState := crcStep s.crcState x }
    ∧ exec (.adlerUpdateImm x) s = .next { s.endedOk with adler := adlerStep s.adler x }

/-- 41_checksum.md R194, R196: CRC_UPDATE and CRC32 over the source range; E_SRC_RANGE leaves CRC_STATE. -/
def Obligations.CrcOverSource : Prop :=
  encode .crcUpdate = 0x00000002 ∧ encode .crc32 = 0x00000004
  ∧ (∀ s : State, s.SrcInRange →
      exec .crcUpdate s =
        .next { s.endedOk with crcState := crcFold s.crcState (s.memRead s.opr.src.toNat s.opr.len.toNat) }
      ∧ exec .crc32 s =
        .next { s.endedOk with crcState := crcFold 0xFFFFFFFF (s.memRead s.opr.src.toNat s.opr.len.toNat) })
  ∧ (∀ s : State, ¬s.SrcInRange →
      exec .crcUpdate s = .next (s.endedWith 0x02) ∧ exec .crc32 s = .next (s.endedWith 0x02))

/-- 41_checksum.md R202, R204: ADLER_UPDATE and ADLER32 over the source range; E_SRC_RANGE leaves ADLER. -/
def Obligations.AdlerOverSource : Prop :=
  encode .adlerUpdate = 0x00000009 ∧ encode .adler32 = 0x0000000B
  ∧ (∀ s : State, s.SrcInRange →
      exec .adlerUpdate s =
        .next { s.endedOk with adler := adlerFold s.adler (s.memRead s.opr.src.toNat s.opr.len.toNat) }
      ∧ exec .adler32 s =
        .next { s.endedOk with adler := adlerFold 0x00000001 (s.memRead s.opr.src.toNat s.opr.len.toNat) })
  ∧ (∀ s : State, ¬s.SrcInRange →
      exec .adlerUpdate s = .next (s.endedWith 0x02) ∧ exec .adler32 s = .next (s.endedWith 0x02))

/-- 42_zlib.md R231, with the hardware's transform: when the checks pass, ZWRAP completes; where its output fits DCAP it writes
header, DEFLATE payload and trailer, else it ends with E_OVERFLOW, the destination unspecified. The output's length is the
transform's answer (00_scope.md R12). -/
def Obligations.ZwrapRule : Prop :=
  encode .zwrap = 0x00000010
  ∧ (∀ s : State, s.SrcInRange → s.DstInRange → s.Apart →
      let r := s.memRead s.opr.src.toNat s.opr.len.toNat
      let out := [s.opr.zhdrOut.extractLsb' 8 8, s.opr.zhdrOut.extractLsb' 0 8] ++ Config.transform.deflate r
        ++ be32 (adler32 r)
      ∃ t, exec .zwrap s = .next t
        ∧ if out.length ≤ s.opr.dcap.toNat then emitted s t out s.res else midFailed s t 0x05)
  ∧ (∀ s : State,
      (¬s.SrcInRange → exec .zwrap s = .next (s.endedWith 0x02))
      ∧ (s.SrcInRange → ¬s.DstInRange → exec .zwrap s = .next (s.endedWith 0x03))
      ∧ (s.SrcInRange → s.DstInRange → ¬s.Apart → exec .zwrap s = .next (s.endedWith 0x04)))

/-- 42_zlib.md R231 for EVERY lawful transform (00_scope.md R12): with checks passed and room, ZWRAP's effect; `exec` is the case
of the hardware's transform. -/
def Obligations.ZwrapForEveryTransform : Prop :=
  (∀ s : State, exec .zwrap s = execZwrapWith Config.transform s)
  ∧ (∀ (T : Config.Transform) (s : State), s.SrcInRange → s.DstInRange → s.Apart →
      let r := s.memRead s.opr.src.toNat s.opr.len.toNat
      let out := [s.opr.zhdrOut.extractLsb' 8 8, s.opr.zhdrOut.extractLsb' 0 8] ++ T.deflate r ++ be32 (adler32 r)
      out.length ≤ s.opr.dcap.toNat →
      ∃ t, execZwrapWith T s = .next t ∧ emitted s t out s.res)

/-- 42_zlib.md R235, R237, R240, with the hardware's transform: when the checks pass, ZUNWRAP completes, as INFLATE's answer on
the payload says (00_scope.md R12). -/
def Obligations.ZunwrapRule : Prop :=
  encode .zunwrap = 0x00000011
  ∧ (∀ s : State, s.SrcInRange → s.DstInRange → s.Apart → 6 ≤ s.opr.len.toNat →
      let x := s.memRead s.opr.src.toNat s.opr.len.toNat
      let n := s.opr.len.toNat
      let trailer := beword (s.memRead (s.opr.src.toNat + n - 4) 4)
      ∃ t, exec .zunwrap s = .next t
        ∧ match Config.transform.inflate (slice x 2 (n - 4)) with
          | none => midFailed s t 0x21
          | some r =>
            if r.length ≤ s.opr.dcap.toNat then
              emitted { s with status := { s.status with ztrlOk := decide (trailer = adler32 r) } } t r
                { s.res with
                  zhdrIn := s.bufByte s.opr.src.toNat ++ s.bufByte (s.opr.src.toNat + 1)
                  ztrailer := trailer
                  zadlerCalc := adler32 r }
            else midFailed s t 0x05)
  ∧ (∀ s : State,
      (¬s.SrcInRange → exec .zunwrap s = .next (s.endedWith 0x02))
      ∧ (s.SrcInRange → ¬s.DstInRange → exec .zunwrap s = .next (s.endedWith 0x03))
      ∧ (s.SrcInRange → s.DstInRange → ¬s.Apart → exec .zunwrap s = .next (s.endedWith 0x04))
      ∧ (s.SrcInRange → s.DstInRange → s.Apart → s.opr.len.toNat < 6 → exec .zunwrap s = .next (s.endedWith 0x20)))

/-- 42_zlib.md R235 for EVERY lawful transform (00_scope.md R12): ZUNWRAP's effect on a stream whose payload inflates to `r`,
with checks passed and room for it; `exec` is the case of the hardware's transform. -/
def Obligations.ZunwrapForEveryTransform : Prop :=
  (∀ s : State, exec .zunwrap s = execZunwrapWith Config.transform s)
  ∧ (∀ (T : Config.Transform) (s : State) (r : Bytes), s.SrcInRange → s.DstInRange → s.Apart → 6 ≤ s.opr.len.toNat →
      T.inflate (s.memRead (s.opr.src.toNat + 2) (s.opr.len.toNat - 6)) = some r → r.length ≤ s.opr.dcap.toNat →
      let trailer := beword (s.memRead (s.opr.src.toNat + s.opr.len.toNat - 4) 4)
      ∃ t, execZunwrapWith T s = .next t
        ∧ emitted { s with status := { s.status with ztrlOk := decide (trailer = adler32 r) } } t r
            { s.res with
              zhdrIn := s.bufByte s.opr.src.toNat ++ s.bufByte (s.opr.src.toNat + 1)
              ztrailer := trailer
              zadlerCalc := adler32 r })

/-- 42_zlib.md R245. -/
def Obligations.ZframeRule : Prop :=
  encode .zframe = 0x00000012
  ∧ (∀ s : State, s.SrcInRange → s.DstInRange → s.Apart → s.opr.len.toNat + 6 ≤ s.opr.dcap.toNat →
      ∃ t, exec .zframe s = .next t
        ∧ emitted s t
            ([s.opr.zhdrOut.extractLsb' 8 8, s.opr.zhdrOut.extractLsb' 0 8]
              ++ s.memRead s.opr.src.toNat s.opr.len.toNat ++ be32 s.adler) s.res
        ∧ t.res.outlen.toNat = s.opr.len.toNat + 6)
  ∧ (∀ s : State,
      (¬s.SrcInRange → exec .zframe s = .next (s.endedWith 0x02))
      ∧ (s.SrcInRange → ¬s.DstInRange → exec .zframe s = .next (s.endedWith 0x03))
      ∧ (s.SrcInRange → s.DstInRange → ¬s.Apart → exec .zframe s = .next (s.endedWith 0x04))
      ∧ (s.SrcInRange → s.DstInRange → s.Apart → s.opr.dcap.toNat < s.opr.len.toNat + 6 →
          exec .zframe s = .next (s.endedWith 0x05)))

/-- 42_zlib.md R250. -/
def Obligations.ZstripRule : Prop :=
  encode .zstrip = 0x00000013
  ∧ (∀ s : State, s.SrcInRange → s.DstInRange → s.Apart → 6 ≤ s.opr.len.toNat →
      s.opr.len.toNat - 6 ≤ s.opr.dcap.toNat →
      ∃ t, exec .zstrip s = .next t
        ∧ emitted s t (s.memRead (s.opr.src.toNat + 2) (s.opr.len.toNat - 6))
            { s.res with
              zhdrIn := s.bufByte s.opr.src.toNat ++ s.bufByte (s.opr.src.toNat + 1)
              ztrailer := beword (s.memRead (s.opr.src.toNat + s.opr.len.toNat - 4) 4) })
  ∧ (∀ s : State,
      (¬s.SrcInRange → exec .zstrip s = .next (s.endedWith 0x02))
      ∧ (s.SrcInRange → ¬s.DstInRange → exec .zstrip s = .next (s.endedWith 0x03))
      ∧ (s.SrcInRange → s.DstInRange → ¬s.Apart → exec .zstrip s = .next (s.endedWith 0x04))
      ∧ (s.SrcInRange → s.DstInRange → s.Apart → s.opr.len.toNat < 6 → exec .zstrip s = .next (s.endedWith 0x20))
      ∧ (s.SrcInRange → s.DstInRange → s.Apart → 6 ≤ s.opr.len.toNat → s.opr.dcap.toNat < s.opr.len.toNat - 6 →
          exec .zstrip s = .next (s.endedWith 0x05)))

/-- 43_framer.md R261. -/
def Obligations.SigEmitRule : Prop :=
  encode .sigEmit = 0x00000020
  ∧ (∀ s : State, s.DstInRange → 8 ≤ s.opr.dcap.toNat →
      ∃ t, exec .sigEmit s = .next t
        ∧ emitted s t s.sig s.res
        ∧ t.res.outlen = 8)
  ∧ (∀ s : State,
      (¬s.DstInRange → exec .sigEmit s = .next (s.endedWith 0x03))
      ∧ (s.DstInRange → s.opr.dcap.toNat < 8 → exec .sigEmit s = .next (s.endedWith 0x05)))

/-- 43_framer.md R265. -/
def Obligations.SigCheckRule : Prop :=
  encode .sigCheck = 0x00000021
  ∧ (∀ s : State, s.SrcInRange → 8 ≤ s.opr.len.toNat → s.memRead s.opr.src.toNat 8 = s.sig →
      exec .sigCheck s =
        .next { s.endedOk with res := { s.res with outlen := 8, next := BitVec.ofNat 32 (s.opr.src.toNat + 8) } })
  ∧ (∀ s : State,
      (¬s.SrcInRange → exec .sigCheck s = .next (s.endedWith 0x02))
      ∧ (s.SrcInRange → s.opr.len.toNat < 8 ∨ s.memRead s.opr.src.toNat 8 ≠ s.sig →
          exec .sigCheck s = .next (s.endedWith 0x10)))

/-- 43_framer.md R270, with the chunk layout and CRC domain of 30_encoding.md R130, R131 written out. -/
def Obligations.ChunkEmitRule : Prop :=
  encode .chunkEmit = 0x00000022
  ∧ (∀ s : State, s.SrcInRange → s.DstInRange → s.Apart → s.opr.len.toNat + 12 ≤ s.opr.dcap.toNat →
      let p := s.memRead s.opr.src.toNat s.opr.len.toNat
      ∃ t, exec .chunkEmit s = .next t
        ∧ emitted s t (be32 s.opr.len ++ be32 s.opr.type ++ p ++ be32 (crc32 (be32 s.opr.type ++ p))) s.res
        ∧ t.res.outlen.toNat = s.opr.len.toNat + 12)
  ∧ (∀ s : State,
      (¬s.SrcInRange → exec .chunkEmit s = .next (s.endedWith 0x02))
      ∧ (s.SrcInRange → ¬s.DstInRange → exec .chunkEmit s = .next (s.endedWith 0x03))
      ∧ (s.SrcInRange → s.DstInRange → ¬s.Apart → exec .chunkEmit s = .next (s.endedWith 0x04))
      ∧ (s.SrcInRange → s.DstInRange → s.Apart → s.opr.dcap.toNat < s.opr.len.toNat + 12 →
          exec .chunkEmit s = .next (s.endedWith 0x05)))

/-- 43_framer.md R275, R279: every result register and CRC_OK; no BUF byte changes; and the kinds of type tags. -/
def Obligations.ChunkParseRule : Prop :=
  encode .chunkParse = 0x00000023
  ∧ (∀ (s : State) (n : Nat), s.SrcInRange → 12 ≤ s.opr.len.toNat →
      n = (beword (s.memRead s.opr.src.toNat 4)).toNat → 12 + n ≤ s.opr.len.toNat →
      let src := s.opr.src.toNat
      let tag := s.memRead (src + 4) 4
      let stored := beword (s.memRead (src + 8 + n) 4)
      let computed := crc32 (tag ++ s.memRead (src + 8) n)
      exec .chunkParse s =
        .next { s.endedOk with
          status := { s.endedOk.status with crcOk := decide (stored = computed) }
          res := { s.res with
            outlen := BitVec.ofNat 32 (12 + n)
            next := BitVec.ofNat 32 (src + 12 + n)
            chLen := BitVec.ofNat 32 n
            chType := beword tag
            chCrc := stored
            chCrcCalc := computed
            chKind := chunkKind (beword tag) } })
  ∧ (∀ s : State,
      (¬s.SrcInRange → exec .chunkParse s = .next (s.endedWith 0x02))
      ∧ (s.SrcInRange → s.opr.len.toNat < 12 → exec .chunkParse s = .next (s.endedWith 0x22))
      ∧ (s.SrcInRange → 12 ≤ s.opr.len.toNat → s.opr.len.toNat < 12 + (beword (s.memRead s.opr.src.toNat 4)).toNat →
          exec .chunkParse s = .next (s.endedWith 0x22)))
  ∧ (chunkKind 0x49484452 = 1 ∧ chunkKind 0x49444154 = 2 ∧ chunkKind 0x49454E44 = 3
    ∧ ∀ v : Word, v ≠ 0x49484452 → v ≠ 0x49444154 → v ≠ 0x49454E44 → chunkKind v = 0)

/-- 43_framer.md R285: the output is the chunks of the parts `c[k*CEIL .. min((k+1)*CEIL, LEN))` in order, `n = ⌈LEN / CEIL⌉` the
least number with `LEN ≤ n * CEIL`. -/
def Obligations.ChunkSplitRule : Prop :=
  encode .chunkSplit = 0x00000024
  ∧ (∀ (s : State) (n : Nat), s.SrcInRange → s.DstInRange → s.opr.ceil ≠ 0 → s.Apart →
      s.opr.len.toNat ≤ n * s.opr.ceil.toNat → (∀ m, s.opr.len.toNat ≤ m * s.opr.ceil.toNat → n ≤ m) →
      s.opr.len.toNat + 12 * n ≤ s.opr.dcap.toNat →
      let part : Nat → Bytes := fun k =>
        s.memRead (s.opr.src.toNat + k * s.opr.ceil.toNat)
          (min ((k + 1) * s.opr.ceil.toNat) s.opr.len.toNat - k * s.opr.ceil.toNat)
      ∃ t, exec .chunkSplit s = .next t
        ∧ emitted s t
            ((List.range n).flatMap fun k =>
              be32 (BitVec.ofNat 32 (part k).length) ++ be32 s.opr.type ++ part k
                ++ be32 (crc32 (be32 s.opr.type ++ part k)))
            { s.res with chunkCnt := BitVec.ofNat 32 n }
        ∧ t.res.outlen.toNat = s.opr.len.toNat + 12 * n)
  ∧ (∀ s : State,
      (¬s.SrcInRange → exec .chunkSplit s = .next (s.endedWith 0x02))
      ∧ (s.SrcInRange → ¬s.DstInRange → exec .chunkSplit s = .next (s.endedWith 0x03))
      ∧ (s.SrcInRange → s.DstInRange → s.opr.ceil = 0 → exec .chunkSplit s = .next (s.endedWith 0x06))
      ∧ (s.SrcInRange → s.DstInRange → s.opr.ceil ≠ 0 → ¬s.Apart → exec .chunkSplit s = .next (s.endedWith 0x04))
      ∧ (∀ n, s.SrcInRange → s.DstInRange → s.opr.ceil ≠ 0 → s.Apart →
          s.opr.len.toNat ≤ n * s.opr.ceil.toNat → (∀ m, s.opr.len.toNat ≤ m * s.opr.ceil.toNat → n ≤ m) →
          s.opr.dcap.toNat < s.opr.len.toNat + 12 * n → exec .chunkSplit s = .next (s.endedWith 0x05)))

/-! ### Arithmetic -/

/-- 41_checksum.md R191, R192: the table-driven step equals eight shifts of `s xor x`, for every state and byte. -/
def Obligations.CrcStepBitwise : Prop :=
  ∀ (s : Word) (x : Byte),
    crcStep s x = Nat.repeat (fun c => if c.getLsbD 0 then (c >>> 1) ^^^ 0xEDB88320 else c >>> 1) 8 (s ^^^ x.setWidth 32)

/-- 41_checksum.md R197: the composition law, and what it means for commands: CRC_UPDATE over two adjoining ranges, one after
the other, leaves the CRC_STATE of CRC_UPDATE over both. -/
def Obligations.CrcComposition : Prop :=
  (∀ (s : Word) (x y : Bytes), crcFold (crcFold s x) y = crcFold s (x ++ y))
  ∧ (∀ (s t : State) (a m n : Nat), a + m + n ≤ s.bufBytes → exec .crcUpdate (s.withSource a m) = .next t →
      ∃ u v, exec .crcUpdate (t.withSource (a + m) n) = .next u ∧ exec .crcUpdate (s.withSource a (m + n)) = .next v
        ∧ u.crcState = v.crcState)

/-- 41_checksum.md R200: the step on the two halves, over the naturals. -/
def Obligations.AdlerStepHalves : Prop :=
  ∀ (v : Word) (x : Byte),
    let a' := (v.toNat % 65536 + x.toNat) % 65521
    let b' := (v.toNat / 65536 + a') % 65521
    (adlerStep v x).toNat = b' * 65536 + a'
    ∧ (adlerStep v x).toNat % 65536 < 65521 ∧ (adlerStep v x).toNat / 65536 < 65521

/-- 41_checksum.md R205: the composition law, and what it means for commands. -/
def Obligations.AdlerComposition : Prop :=
  (∀ (v : Word) (x y : Bytes), adlerFold (adlerFold v x) y = adlerFold v (x ++ y))
  ∧ (∀ (s t : State) (a m n : Nat), a + m + n ≤ s.bufBytes → exec .adlerUpdate (s.withSource a m) = .next t →
      ∃ u v, exec .adlerUpdate (t.withSource (a + m) n) = .next u ∧ exec .adlerUpdate (s.withSource a (m + n)) = .next v
        ∧ u.adler = v.adler)

/-! ### Composition of commands -/

/-- 42_zlib.md R233, for every lawful transform: a stream that ZWRAP wrote, wherever it lies in the state ZUNWRAP runs in, comes
back as the raw bytes, with equal trailers. -/
def Obligations.WrapUnwrapRoundTrip : Prop :=
  ∀ (T : Config.Transform) (s t u : State) (r : Bytes),
    r = s.memRead s.opr.src.toNat s.opr.len.toNat →
    execZwrapWith T s = .next t → t.status.err = false →
    u.SrcInRange → u.DstInRange → u.Apart → r.length ≤ u.opr.dcap.toNat →
    u.memRead u.opr.src.toNat u.opr.len.toNat = t.memRead s.opr.dst.toNat t.res.outlen.toNat →
    ∃ v, execZunwrapWith T u = .next v ∧ v.status.err = false
      ∧ v.memRead u.opr.dst.toNat r.length = r ∧ v.res.outlen.toNat = r.length
      ∧ v.res.zhdrIn = s.opr.zhdrOut ∧ v.res.ztrailer = adler32 r ∧ v.res.zadlerCalc = adler32 r
      ∧ v.status.ztrlOk = true

/-- 42_zlib.md R252, for every lawful transform: ZFRAME over `d = DEFLATE(r)` with ADLER = adler32(r) writes what ZWRAP over `r`
writes; and ZSTRIP's output, inflated, is what ZUNWRAP writes. -/
def Obligations.HalvesCompose : Prop :=
  (∀ (T : Config.Transform) (s t u v : State),
      execZwrapWith T s = .next t → t.status.err = false →
      exec .zframe u = .next v → v.status.err = false →
      u.opr.zhdrOut = s.opr.zhdrOut →
      u.memRead u.opr.src.toNat u.opr.len.toNat = T.deflate (s.memRead s.opr.src.toNat s.opr.len.toNat) →
      u.adler = adler32 (s.memRead s.opr.src.toNat s.opr.len.toNat) →
      v.memRead u.opr.dst.toNat v.res.outlen.toNat = t.memRead s.opr.dst.toNat t.res.outlen.toNat)
  ∧ (∀ (T : Config.Transform) (s t u v : State),
      execZunwrapWith T s = .next t → t.status.err = false →
      exec .zstrip u = .next v → v.status.err = false →
      u.memRead u.opr.src.toNat u.opr.len.toNat = s.memRead s.opr.src.toNat s.opr.len.toNat →
      T.inflate (v.memRead u.opr.dst.toNat v.res.outlen.toNat)
        = some (t.memRead s.opr.dst.toNat t.res.outlen.toNat))

/-- 43_framer.md R290: CHUNK_PARSE over what CHUNK_EMIT wrote, wherever it lies in the state the parse runs in, gives back tag,
length, payload and an equal CRC. -/
def Obligations.EmitParseRoundTrip : Prop :=
  ∀ (s t u : State) (p : Bytes),
    p = s.memRead s.opr.src.toNat s.opr.len.toNat →
    exec .chunkEmit s = .next t → t.status.err = false →
    u.SrcInRange →
    u.memRead u.opr.src.toNat u.opr.len.toNat = t.memRead s.opr.dst.toNat t.res.outlen.toNat →
    ∃ v, exec .chunkParse u = .next v ∧ v.status.err = false
      ∧ v.res.chType = s.opr.type ∧ v.res.chLen.toNat = p.length
      ∧ v.memRead (v.res.next.toNat - v.res.outlen.toNat + 8) p.length = p
      ∧ v.res.chCrc = crc32 (be32 s.opr.type ++ p) ∧ v.res.chCrcCalc = crc32 (be32 s.opr.type ++ p)
      ∧ v.status.crcOk = true

/-- 43_framer.md R288: after CHUNK_SPLIT without error, the host's parsing loop over its output returns CHUNK_CNT chunks, each with
CRC_OK = 1 and tag TYPE, back to back from DST, chunk k of length CEIL but the last, which has 1 to CEIL bytes; and their
payloads in order are the source bytes. -/
def Obligations.SplitParsesBack : Prop :=
  ∀ s t : State, exec .chunkSplit s = .next t → t.status.err = false →
    ∃ cs, parseLoop t.res.chunkCnt.toNat t s.opr.dst.toNat t.res.outlen.toNat = some cs
      ∧ cs.length = t.res.chunkCnt.toNat
      ∧ (∀ c ∈ cs, c.crcOk = true ∧ c.tag = s.opr.type)
      ∧ (∀ (k : Nat) (c : ParsedChunk), cs[k]? = some c →
          c.payloadAt = s.opr.dst.toNat + k * (s.opr.ceil.toNat + 12) + 8
          ∧ (k + 1 < cs.length → c.len = s.opr.ceil.toNat)
          ∧ (k + 1 = cs.length → 1 ≤ c.len ∧ c.len ≤ s.opr.ceil.toNat))
      ∧ (cs.flatMap fun c => t.memRead c.payloadAt c.len) = s.memRead s.opr.src.toNat s.opr.len.toNat

/-- 43_framer.md R280, 30_encoding.md R133: `read_all` over a container (the signature, then chunks laid end to end) returns every
chunk in order: tag, payload offset and length, each with CRC_OK = 1. -/
def Obligations.ReadAllOfAContainer : Prop :=
  ∀ (s : State) (a n : Nat) (chunks : List (Word × Bytes)),
    a + n ≤ s.bufBytes →
    s.memRead a n = s.sig ++ chunks.flatMap (fun c =>
      be32 (BitVec.ofNat 32 c.2.length) ++ be32 c.1 ++ c.2 ++ be32 (crc32 (be32 c.1 ++ c.2))) →
    ∃ cs, readAll chunks.length s a n = some cs
      ∧ cs.map (fun c => (c.tag, s.memRead c.payloadAt c.len, c.crcOk)) = chunks.map (fun c => (c.1, c.2, true))

/-! ### The host's side -/

/-- 10_state.md R30: which register is at which offset, and that an aligned 32-bit access there reads or writes it, a write to
CMD included (R42; 20_memory.md R93); R66: every other aligned offset of the register space reads 0, ignores writes and raises
no bus error. That the answer stands in `rsp` is the model's (log 9). -/
def Obligations.RegisterMap : Prop :=
  (∀ p ∈ ([(0x000, Reg.id), (0x004, .ctrl), (0x008, .status), (0x00C, .cmd), (0x010, .src), (0x014, .len), (0x018, .dst),
    (0x01C, .dcap), (0x020, .type), (0x024, .ceil), (0x028, .zhdrOut), (0x030, .crcState), (0x034, .crcValue), (0x038, .adler),
    (0x040, .outlen), (0x044, .next), (0x048, .chLen), (0x04C, .chType), (0x050, .chCrc), (0x054, .chCrcCalc), (0x058, .chKind),
    (0x05C, .chunkCnt), (0x060, .zhdrIn), (0x064, .ztrailer), (0x068, .zadlerCalc), (0x070, .sigHi), (0x074, .sigLo),
    (0x078, .bufsize)] : List (Nat × Reg)), ∀ (s : State) (v : Word),
      s.perform ⟨BitVec.ofNat 17 p.1, .word, .read⟩ = { s with rsp := some (.readOk (s.readReg p.2)) }
      ∧ s.perform ⟨BitVec.ofNat 17 p.1, .word, .write v⟩ = { s.writeReg p.2 v with rsp := some .writeOk })
  ∧ (∀ (s : State) (off : BitVec 17) (v : Word),
      off.toNat < 0x10000 → off.toNat % 4 = 0 → off.toNat = 0x02C ∨ off.toNat = 0x03C ∨ off.toNat = 0x06C ∨ 0x07C ≤ off.toNat →
      s.perform ⟨off, .word, .read⟩ = { s with rsp := some (.readOk 0) }
      ∧ s.perform ⟨off, .word, .write v⟩ = { s with rsp := some .writeOk })

/-- 10_state.md R43–R50, R52: a writable register holds what the host wrote, all 32 bits (of ZHDR_OUT the low 16, R49), and the
write changes no other register. -/
def Obligations.WritableRegisters : Prop :=
  ∀ (s : State) (v : Word) (r q : Reg),
    r ∈ [Reg.src, .len, .dst, .dcap, .type, .ceil, .zhdrOut, .crcState, .adler] →
    (s.writeReg r v).readReg r = (if r = .zhdrOut then BitVec.ofNat 32 (v.toNat % 65536) else v)
    ∧ (q ≠ r → ¬(r = .crcState ∧ q = .crcValue) → (s.writeReg r v).readReg q = s.readReg q)
    ∧ (s.writeReg .crcState v).readReg .crcValue = v ^^^ 0xFFFFFFFF

/-- 10_state.md R31, R51, R53–R65: a write to a read-only register changes nothing; the constants ID, SIG_HI, SIG_LO and BUFSIZE
read ID's value and the parameters (R64, R65). -/
def Obligations.ReadOnlyRegisters : Prop :=
  ∀ (s : State) (v : Word) (r : Reg),
    r ∈ [Reg.id, .crcValue, .outlen, .next, .chLen, .chType, .chCrc, .chCrcCalc, .chKind, .chunkCnt, .zhdrIn, .ztrailer,
         .zadlerCalc, .sigHi, .sigLo, .bufsize] →
    s.writeReg r v = s
    ∧ s.readReg .id = 0x494D4733 ∧ be32 (s.readReg .sigHi) ++ be32 (s.readReg .sigLo) = s.sig
    ∧ (s.readReg .bufsize).toNat = s.bufBytes

/-- 10_state.md R35–R38, R39 (CRC_OK), R40 (ZTRL_OK), R41: where each field of STATUS stands, the reserved bits reading 0; a
STATUS write clears DONE by bit 1 and ERR with ERRCODE by bit 2, and changes nothing else. -/
def Obligations.StatusRegister : Prop :=
  (∀ s : State,
    (s.readReg .status).toNat =
      s.busy.toNat + 2 * s.status.done.toNat + 4 * s.status.err.toNat + 256 * s.status.errcode.toNat
        + 65536 * s.status.crcOk.toNat + 131072 * s.status.ztrlOk.toNat)
  ∧ (∀ (s : State) (v : Word),
    s.writeReg .status v =
      { s with status := { s.status with
          done := if v.getLsbD 1 = true then false else s.status.done
          err := if v.getLsbD 2 = true then false else s.status.err
          errcode := if v.getLsbD 2 = true then 0x00 else s.status.errcode } })

/-- 10_state.md R32, R33, R34: a CTRL write with bit 1 = 0 stores bit 0 in IE and no other bit; CTRL reads IE in bit 0 and 0
elsewhere; with bit 1 = 1 it is the soft reset, and IE is 0. -/
def Obligations.CtrlWrite : Prop :=
  ∀ (s : State) (v : Word),
    (v.getLsbD 1 = false → s.writeReg .ctrl v = { s with ie := v.getLsbD 0 })
    ∧ (v.getLsbD 1 = true → s.writeReg .ctrl v = s.softReset ∧ (s.writeReg .ctrl v).ie = false)
    ∧ (s.readReg .ctrl).toNat = s.ie.toNat

/-- 70_reset_and_hazards.md R341: every register after power-on reset as the host reads it, the engine IDLE, `irq` low, whatever
the parameters and, for a later reset, from any state; with the default signature SIG_HI and SIG_LO read 10_state.md R30's
values. The last clause rests on the model's choice: R340's power-on reset is one event, and a due one is that reset (logs 7,
13). -/
def Obligations.PowerOnReset : Prop :=
  (∀ (p : Params) (s t : State), t = State.resetWith p ∨ t = s.powerOn →
    t.eng = .idle ∧ t.irq = false
    ∧ t.readReg .id = 0x494D4733 ∧ t.readReg .ceil = 0x00002000 ∧ t.readReg .zhdrOut = 0x0000789C
    ∧ t.readReg .crcState = 0xFFFFFFFF ∧ t.readReg .crcValue = 0x00000000 ∧ t.readReg .adler = 0x00000001
    ∧ be32 (t.readReg .sigHi) ++ be32 (t.readReg .sigLo) = t.sig ∧ (t.readReg .bufsize).toNat = t.bufBytes
    ∧ ∀ r, r ∈ [Reg.ctrl, .status, .cmd, .src, .len, .dst, .dcap, .type, .outlen, .next, .chLen, .chType, .chCrc, .chCrcCalc,
                .chKind, .chunkCnt, .zhdrIn, .ztrailer, .zadlerCalc] → t.readReg r = 0)
  ∧ (State.reset.readReg .sigHi = 0x89504E47 ∧ State.reset.readReg .sigLo = 0x0D0A1A0A)
  ∧ (∀ (s : State) (es : List Arrival), s.arrivals = ⟨0, .powerOnReset⟩ :: es →
      step s = .next (State.powerOn { s with arrivals := es }))

/-- 70_reset_and_hazards.md R342: a soft reset gives every register its reset value and the engine IDLE; BUF keeps its contents
but for the destination range of a pending command that has one; the accesses held are then performed, the first first (when
no event from outside comes between, log 7). -/
def Obligations.SoftResetRule : Prop :=
  ∀ s : State,
    (s.softReset.eng = .idle ∧ (∀ r, s.softReset.readReg r = (State.resetWith s.par).readReg r)
      ∧ s.softReset.held = s.held ∧ s.softReset.arrivals = s.arrivals)
    ∧ ((s.eng = .idle ∨ ∃ w, s.eng = .pending w ∧ ∀ i, decode w = .cmd i → writesDest i = false) → bufSame s s.softReset)
    ∧ (∀ c, c < s.opr.dst.toNat ∨ min (s.opr.dst.toNat + s.opr.dcap.toNat) s.bufBytes ≤ c →
        s.softReset.bufByte c = s.bufByte c)
    ∧ (∀ a as, s.held = a :: as → s.NoneDue →
        step s.softReset = .next (State.perform { s.softReset.ticked with held := as } a))

/-- 60_exceptions.md R310: `irq` is IE and (DONE or ERR); so it is low while IE = 0, and any command end raises it with IE = 1. -/
def Obligations.InterruptOutput : Prop :=
  (∀ s : State, s.irq = true ↔ s.ie = true ∧ (s.status.done = true ∨ s.status.err = true))
  ∧ (∀ (i : Instr) (s t : State), exec i s = .next t → t.irq = s.ie)

/-- 20_memory.md R81, R82, R84: which accesses get the bus error response; R85, 60_exceptions.md R306: that it changes no state of
the block. The response field (log 9) and the draw counter that a read with an error advances (log 6) are the model's. -/
def Obligations.BusErrors : Prop :=
  ∀ (s : State) (a : HostAccess),
    (a.off.toNat < 0x10000 ∧ (a.size ≠ .word ∨ a.off.toNat % 4 ≠ 0)
      ∨ 0x10000 ≤ a.off.toNat ∧ (a.off.toNat % a.size.bytes ≠ 0 ∨ 0x10000 + s.bufBytes < a.off.toNat + a.size.bytes)) →
    (∀ v, a.op = .write v → s.perform a = { s with rsp := some .writeError })
    ∧ (a.op = .read → ∃ d, s.perform a = { s with rsp := some (.readError d), draws := s.draws + 1 })

/-- 20_memory.md R83: the host's lanes in the buffer window are little-endian. A write sets exactly its bytes, the low ones first;
a read returns their sum. That the answer, a write's `writeOk` included, stands in `rsp` is the model's choice (log 9). -/
def Obligations.WindowLanes : Prop :=
  ∀ (s : State) (a : HostAccess) (b : Nat), a.off.toNat = 0x10000 + b → b % a.size.bytes = 0 →
    b + a.size.bytes ≤ s.bufBytes →
    (∀ v, a.op = .write v →
      (s.perform a).rsp = some .writeOk
      ∧ (∀ i, i < a.size.bytes → ((s.perform a).bufByte (b + i)).toNat = v.toNat / 256 ^ i % 256)
      ∧ bufSameOutside s (s.perform a) b a.size.bytes
      ∧ s.perform a = { s with buf := (s.perform a).buf, rsp := some .writeOk })
    ∧ (a.op = .read →
      ∃ v : Word, s.perform a = { s with rsp := some (.readOk v) }
        ∧ v.toNat = ((List.range a.size.bytes).map fun i => (s.bufByte (b + i)).toNat * 256 ^ i).sum)

/-- 20_memory.md R93: no host read has a side effect on the block; what a read changes are the model's own response field (log 9)
and draw counter (log 6). -/
def Obligations.ReadsHaveNoSideEffect : Prop :=
  ∀ (s : State) (a : HostAccess), a.op = .read →
    ∃ r d, s.perform a = { s with rsp := some r, draws := d }

/-- 00_scope.md R8, R9: BUF_BYTES and SIG are what the block was built with: no step changes them. That they stand in State is the
model's (logs 1, 2). -/
def Obligations.ParametersNeverChange : Prop := ∀ s t : State, step s = .next t → t.par = s.par
end

