-- ==== Sys2Proof/Laws/State.lean ====
section
/-! SUPPORT. One lemma per field and per named update of State: what the update leaves in the field, true by rfl, so that no
proof unfolds a record update. -/

namespace Sys2Proof.Machine

@[simp] theorem State.raise_par (s : State) (e : CmdError) : (s.raise e).par = s.par := rfl
@[simp] theorem State.raise_eng (s : State) (e : CmdError) : (s.raise e).eng = .idle := rfl
@[simp] theorem State.raise_ie (s : State) (e : CmdError) : (s.raise e).ie = s.ie := rfl
@[simp] theorem State.raise_status (s : State) (e : CmdError) : (s.raise e).status = { s.status with done := false, err := true, errcode := e.code } := rfl
@[simp] theorem State.raise_opr (s : State) (e : CmdError) : (s.raise e).opr = s.opr := rfl
@[simp] theorem State.raise_crcState (s : State) (e : CmdError) : (s.raise e).crcState = s.crcState := rfl
@[simp] theorem State.raise_adler (s : State) (e : CmdError) : (s.raise e).adler = s.adler := rfl
@[simp] theorem State.raise_res (s : State) (e : CmdError) : (s.raise e).res = s.res := rfl
@[simp] theorem State.raise_buf (s : State) (e : CmdError) : (s.raise e).buf = s.buf := rfl
@[simp] theorem State.raise_bufEpoch (s : State) (e : CmdError) : (s.raise e).bufEpoch = s.bufEpoch := rfl
@[simp] theorem State.raise_draws (s : State) (e : CmdError) : (s.raise e).draws = s.draws := rfl
@[simp] theorem State.raise_held (s : State) (e : CmdError) : (s.raise e).held = s.held := rfl
@[simp] theorem State.raise_arrivals (s : State) (e : CmdError) : (s.raise e).arrivals = s.arrivals := rfl
@[simp] theorem State.raise_rsp (s : State) (e : CmdError) : (s.raise e).rsp = s.rsp := rfl
@[simp] theorem State.raise_bufBytes (s : State) (e : CmdError) : (s.raise e).bufBytes = s.bufBytes := rfl
@[simp] theorem State.raise_sig (s : State) (e : CmdError) : (s.raise e).sig = s.sig := rfl

@[simp] theorem State.finish_par (s : State) : (s.finish).par = s.par := rfl
@[simp] theorem State.finish_eng (s : State) : (s.finish).eng = .idle := rfl
@[simp] theorem State.finish_ie (s : State) : (s.finish).ie = s.ie := rfl
@[simp] theorem State.finish_status (s : State) : (s.finish).status = { s.status with done := true, err := false, errcode := 0 } := rfl
@[simp] theorem State.finish_opr (s : State) : (s.finish).opr = s.opr := rfl
@[simp] theorem State.finish_crcState (s : State) : (s.finish).crcState = s.crcState := rfl
@[simp] theorem State.finish_adler (s : State) : (s.finish).adler = s.adler := rfl
@[simp] theorem State.finish_res (s : State) : (s.finish).res = s.res := rfl
@[simp] theorem State.finish_buf (s : State) : (s.finish).buf = s.buf := rfl
@[simp] theorem State.finish_bufEpoch (s : State) : (s.finish).bufEpoch = s.bufEpoch := rfl
@[simp] theorem State.finish_draws (s : State) : (s.finish).draws = s.draws := rfl
@[simp] theorem State.finish_held (s : State) : (s.finish).held = s.held := rfl
@[simp] theorem State.finish_arrivals (s : State) : (s.finish).arrivals = s.arrivals := rfl
@[simp] theorem State.finish_rsp (s : State) : (s.finish).rsp = s.rsp := rfl
@[simp] theorem State.finish_bufBytes (s : State) : (s.finish).bufBytes = s.bufBytes := rfl
@[simp] theorem State.finish_sig (s : State) : (s.finish).sig = s.sig := rfl

@[simp] theorem State.issue_par (s : State) (w : Word) : (s.issue w).par = s.par := rfl
@[simp] theorem State.issue_eng (s : State) (w : Word) : (s.issue w).eng = .pending w := rfl
@[simp] theorem State.issue_ie (s : State) (w : Word) : (s.issue w).ie = s.ie := rfl
@[simp] theorem State.issue_status (s : State) (w : Word) : (s.issue w).status = { s.status with done := false, err := false, errcode := 0 } := rfl
@[simp] theorem State.issue_opr (s : State) (w : Word) : (s.issue w).opr = s.opr := rfl
@[simp] theorem State.issue_crcState (s : State) (w : Word) : (s.issue w).crcState = s.crcState := rfl
@[simp] theorem State.issue_adler (s : State) (w : Word) : (s.issue w).adler = s.adler := rfl
@[simp] theorem State.issue_res (s : State) (w : Word) : (s.issue w).res = s.res := rfl
@[simp] theorem State.issue_buf (s : State) (w : Word) : (s.issue w).buf = s.buf := rfl
@[simp] theorem State.issue_bufEpoch (s : State) (w : Word) : (s.issue w).bufEpoch = s.bufEpoch := rfl
@[simp] theorem State.issue_draws (s : State) (w : Word) : (s.issue w).draws = s.draws := rfl
@[simp] theorem State.issue_held (s : State) (w : Word) : (s.issue w).held = s.held := rfl
@[simp] theorem State.issue_arrivals (s : State) (w : Word) : (s.issue w).arrivals = s.arrivals := rfl
@[simp] theorem State.issue_rsp (s : State) (w : Word) : (s.issue w).rsp = s.rsp := rfl
@[simp] theorem State.issue_bufBytes (s : State) (w : Word) : (s.issue w).bufBytes = s.bufBytes := rfl
@[simp] theorem State.issue_sig (s : State) (w : Word) : (s.issue w).sig = s.sig := rfl

@[simp] theorem State.acknowledge_par (s : State) (v : Word) : (s.acknowledge v).par = s.par := rfl
@[simp] theorem State.acknowledge_eng (s : State) (v : Word) : (s.acknowledge v).eng = s.eng := rfl
@[simp] theorem State.acknowledge_ie (s : State) (v : Word) : (s.acknowledge v).ie = s.ie := rfl
@[simp] theorem State.acknowledge_opr (s : State) (v : Word) : (s.acknowledge v).opr = s.opr := rfl
@[simp] theorem State.acknowledge_crcState (s : State) (v : Word) : (s.acknowledge v).crcState = s.crcState := rfl
@[simp] theorem State.acknowledge_adler (s : State) (v : Word) : (s.acknowledge v).adler = s.adler := rfl
@[simp] theorem State.acknowledge_res (s : State) (v : Word) : (s.acknowledge v).res = s.res := rfl
@[simp] theorem State.acknowledge_buf (s : State) (v : Word) : (s.acknowledge v).buf = s.buf := rfl
@[simp] theorem State.acknowledge_bufEpoch (s : State) (v : Word) : (s.acknowledge v).bufEpoch = s.bufEpoch := rfl
@[simp] theorem State.acknowledge_draws (s : State) (v : Word) : (s.acknowledge v).draws = s.draws := rfl
@[simp] theorem State.acknowledge_held (s : State) (v : Word) : (s.acknowledge v).held = s.held := rfl
@[simp] theorem State.acknowledge_arrivals (s : State) (v : Word) : (s.acknowledge v).arrivals = s.arrivals := rfl
@[simp] theorem State.acknowledge_rsp (s : State) (v : Word) : (s.acknowledge v).rsp = s.rsp := rfl
@[simp] theorem State.acknowledge_bufBytes (s : State) (v : Word) : (s.acknowledge v).bufBytes = s.bufBytes := rfl
@[simp] theorem State.acknowledge_sig (s : State) (v : Word) : (s.acknowledge v).sig = s.sig := rfl

@[simp] theorem State.setOut_par (s : State) (b : Word) (n : Nat) : (s.setOut b n).par = s.par := rfl
@[simp] theorem State.setOut_eng (s : State) (b : Word) (n : Nat) : (s.setOut b n).eng = s.eng := rfl
@[simp] theorem State.setOut_ie (s : State) (b : Word) (n : Nat) : (s.setOut b n).ie = s.ie := rfl
@[simp] theorem State.setOut_status (s : State) (b : Word) (n : Nat) : (s.setOut b n).status = s.status := rfl
@[simp] theorem State.setOut_opr (s : State) (b : Word) (n : Nat) : (s.setOut b n).opr = s.opr := rfl
@[simp] theorem State.setOut_crcState (s : State) (b : Word) (n : Nat) : (s.setOut b n).crcState = s.crcState := rfl
@[simp] theorem State.setOut_adler (s : State) (b : Word) (n : Nat) : (s.setOut b n).adler = s.adler := rfl
@[simp] theorem State.setOut_res (s : State) (b : Word) (n : Nat) : (s.setOut b n).res = { s.res with outlen := BitVec.ofNat 32 n, next := b + BitVec.ofNat 32 n } := rfl
@[simp] theorem State.setOut_buf (s : State) (b : Word) (n : Nat) : (s.setOut b n).buf = s.buf := rfl
@[simp] theorem State.setOut_bufEpoch (s : State) (b : Word) (n : Nat) : (s.setOut b n).bufEpoch = s.bufEpoch := rfl
@[simp] theorem State.setOut_draws (s : State) (b : Word) (n : Nat) : (s.setOut b n).draws = s.draws := rfl
@[simp] theorem State.setOut_held (s : State) (b : Word) (n : Nat) : (s.setOut b n).held = s.held := rfl
@[simp] theorem State.setOut_arrivals (s : State) (b : Word) (n : Nat) : (s.setOut b n).arrivals = s.arrivals := rfl
@[simp] theorem State.setOut_rsp (s : State) (b : Word) (n : Nat) : (s.setOut b n).rsp = s.rsp := rfl
@[simp] theorem State.setOut_bufBytes (s : State) (b : Word) (n : Nat) : (s.setOut b n).bufBytes = s.bufBytes := rfl
@[simp] theorem State.setOut_sig (s : State) (b : Word) (n : Nat) : (s.setOut b n).sig = s.sig := rfl

@[simp] theorem State.memWrite_par (s : State) (a : Nat) (xs : Bytes) : (s.memWrite a xs).par = s.par := rfl
@[simp] theorem State.memWrite_eng (s : State) (a : Nat) (xs : Bytes) : (s.memWrite a xs).eng = s.eng := rfl
@[simp] theorem State.memWrite_ie (s : State) (a : Nat) (xs : Bytes) : (s.memWrite a xs).ie = s.ie := rfl
@[simp] theorem State.memWrite_status (s : State) (a : Nat) (xs : Bytes) : (s.memWrite a xs).status = s.status := rfl
@[simp] theorem State.memWrite_opr (s : State) (a : Nat) (xs : Bytes) : (s.memWrite a xs).opr = s.opr := rfl
@[simp] theorem State.memWrite_crcState (s : State) (a : Nat) (xs : Bytes) : (s.memWrite a xs).crcState = s.crcState := rfl
@[simp] theorem State.memWrite_adler (s : State) (a : Nat) (xs : Bytes) : (s.memWrite a xs).adler = s.adler := rfl
@[simp] theorem State.memWrite_res (s : State) (a : Nat) (xs : Bytes) : (s.memWrite a xs).res = s.res := rfl
@[simp] theorem State.memWrite_buf (s : State) (a : Nat) (xs : Bytes) : (s.memWrite a xs).buf = s.buf.store a xs := rfl
@[simp] theorem State.memWrite_bufEpoch (s : State) (a : Nat) (xs : Bytes) : (s.memWrite a xs).bufEpoch = s.bufEpoch := rfl
@[simp] theorem State.memWrite_draws (s : State) (a : Nat) (xs : Bytes) : (s.memWrite a xs).draws = s.draws := rfl
@[simp] theorem State.memWrite_held (s : State) (a : Nat) (xs : Bytes) : (s.memWrite a xs).held = s.held := rfl
@[simp] theorem State.memWrite_arrivals (s : State) (a : Nat) (xs : Bytes) : (s.memWrite a xs).arrivals = s.arrivals := rfl
@[simp] theorem State.memWrite_rsp (s : State) (a : Nat) (xs : Bytes) : (s.memWrite a xs).rsp = s.rsp := rfl
@[simp] theorem State.memWrite_bufBytes (s : State) (a : Nat) (xs : Bytes) : (s.memWrite a xs).bufBytes = s.bufBytes := rfl
@[simp] theorem State.memWrite_sig (s : State) (a : Nat) (xs : Bytes) : (s.memWrite a xs).sig = s.sig := rfl

@[simp] theorem State.undefinedBytes_par (s : State) (a n : Nat) : (s.undefinedBytes a n).par = s.par := rfl
@[simp] theorem State.undefinedBytes_eng (s : State) (a n : Nat) : (s.undefinedBytes a n).eng = s.eng := rfl
@[simp] theorem State.undefinedBytes_ie (s : State) (a n : Nat) : (s.undefinedBytes a n).ie = s.ie := rfl
@[simp] theorem State.undefinedBytes_status (s : State) (a n : Nat) : (s.undefinedBytes a n).status = s.status := rfl
@[simp] theorem State.undefinedBytes_opr (s : State) (a n : Nat) : (s.undefinedBytes a n).opr = s.opr := rfl
@[simp] theorem State.undefinedBytes_crcState (s : State) (a n : Nat) : (s.undefinedBytes a n).crcState = s.crcState := rfl
@[simp] theorem State.undefinedBytes_adler (s : State) (a n : Nat) : (s.undefinedBytes a n).adler = s.adler := rfl
@[simp] theorem State.undefinedBytes_res (s : State) (a n : Nat) : (s.undefinedBytes a n).res = s.res := rfl
@[simp] theorem State.undefinedBytes_buf (s : State) (a n : Nat) : (s.undefinedBytes a n).buf = s.buf.store a ((List.range' a n).map (Config.bufDraw s.draws)) := rfl
@[simp] theorem State.undefinedBytes_bufEpoch (s : State) (a n : Nat) : (s.undefinedBytes a n).bufEpoch = s.bufEpoch := rfl
@[simp] theorem State.undefinedBytes_draws (s : State) (a n : Nat) : (s.undefinedBytes a n).draws = s.draws + 1 := rfl
@[simp] theorem State.undefinedBytes_held (s : State) (a n : Nat) : (s.undefinedBytes a n).held = s.held := rfl
@[simp] theorem State.undefinedBytes_arrivals (s : State) (a n : Nat) : (s.undefinedBytes a n).arrivals = s.arrivals := rfl
@[simp] theorem State.undefinedBytes_rsp (s : State) (a n : Nat) : (s.undefinedBytes a n).rsp = s.rsp := rfl
@[simp] theorem State.undefinedBytes_bufBytes (s : State) (a n : Nat) : (s.undefinedBytes a n).bufBytes = s.bufBytes := rfl
@[simp] theorem State.undefinedBytes_sig (s : State) (a n : Nat) : (s.undefinedBytes a n).sig = s.sig := rfl

@[simp] theorem State.emit_par (s : State) (out : Bytes) : (s.emit out).par = s.par := rfl
@[simp] theorem State.emit_eng (s : State) (out : Bytes) : (s.emit out).eng = s.eng := rfl
@[simp] theorem State.emit_ie (s : State) (out : Bytes) : (s.emit out).ie = s.ie := rfl
@[simp] theorem State.emit_status (s : State) (out : Bytes) : (s.emit out).status = s.status := rfl
@[simp] theorem State.emit_opr (s : State) (out : Bytes) : (s.emit out).opr = s.opr := rfl
@[simp] theorem State.emit_crcState (s : State) (out : Bytes) : (s.emit out).crcState = s.crcState := rfl
@[simp] theorem State.emit_adler (s : State) (out : Bytes) : (s.emit out).adler = s.adler := rfl
@[simp] theorem State.emit_res (s : State) (out : Bytes) : (s.emit out).res = { s.res with outlen := BitVec.ofNat 32 out.length, next := s.opr.dst + BitVec.ofNat 32 out.length } := rfl
@[simp] theorem State.emit_buf (s : State) (out : Bytes) : (s.emit out).buf = s.buf.store s.opr.dst.toNat out := rfl
@[simp] theorem State.emit_bufEpoch (s : State) (out : Bytes) : (s.emit out).bufEpoch = s.bufEpoch := rfl
@[simp] theorem State.emit_draws (s : State) (out : Bytes) : (s.emit out).draws = s.draws := rfl
@[simp] theorem State.emit_held (s : State) (out : Bytes) : (s.emit out).held = s.held := rfl
@[simp] theorem State.emit_arrivals (s : State) (out : Bytes) : (s.emit out).arrivals = s.arrivals := rfl
@[simp] theorem State.emit_rsp (s : State) (out : Bytes) : (s.emit out).rsp = s.rsp := rfl
@[simp] theorem State.emit_bufBytes (s : State) (out : Bytes) : (s.emit out).bufBytes = s.bufBytes := rfl
@[simp] theorem State.emit_sig (s : State) (out : Bytes) : (s.emit out).sig = s.sig := rfl

@[simp] theorem State.resetRegs_par (s : State) : (s.resetRegs).par = s.par := rfl
@[simp] theorem State.resetRegs_eng (s : State) : (s.resetRegs).eng = .idle := rfl
@[simp] theorem State.resetRegs_ie (s : State) : (s.resetRegs).ie = false := rfl
@[simp] theorem State.resetRegs_status (s : State) : (s.resetRegs).status = Status.reset := rfl
@[simp] theorem State.resetRegs_opr (s : State) : (s.resetRegs).opr = Operands.reset := rfl
@[simp] theorem State.resetRegs_crcState (s : State) : (s.resetRegs).crcState = Config.crcInit := rfl
@[simp] theorem State.resetRegs_adler (s : State) : (s.resetRegs).adler = Config.adlerInit := rfl
@[simp] theorem State.resetRegs_res (s : State) : (s.resetRegs).res = Results.reset := rfl
@[simp] theorem State.resetRegs_buf (s : State) : (s.resetRegs).buf = s.buf := rfl
@[simp] theorem State.resetRegs_bufEpoch (s : State) : (s.resetRegs).bufEpoch = s.bufEpoch := rfl
@[simp] theorem State.resetRegs_draws (s : State) : (s.resetRegs).draws = s.draws := rfl
@[simp] theorem State.resetRegs_held (s : State) : (s.resetRegs).held = s.held := rfl
@[simp] theorem State.resetRegs_arrivals (s : State) : (s.resetRegs).arrivals = s.arrivals := rfl
@[simp] theorem State.resetRegs_rsp (s : State) : (s.resetRegs).rsp = s.rsp := rfl
@[simp] theorem State.resetRegs_bufBytes (s : State) : (s.resetRegs).bufBytes = s.bufBytes := rfl
@[simp] theorem State.resetRegs_sig (s : State) : (s.resetRegs).sig = s.sig := rfl

@[simp] theorem State.powerOn_par (s : State) : (s.powerOn).par = s.par := rfl
@[simp] theorem State.powerOn_eng (s : State) : (s.powerOn).eng = .idle := rfl
@[simp] theorem State.powerOn_ie (s : State) : (s.powerOn).ie = false := rfl
@[simp] theorem State.powerOn_status (s : State) : (s.powerOn).status = Status.reset := rfl
@[simp] theorem State.powerOn_opr (s : State) : (s.powerOn).opr = Operands.reset := rfl
@[simp] theorem State.powerOn_crcState (s : State) : (s.powerOn).crcState = Config.crcInit := rfl
@[simp] theorem State.powerOn_adler (s : State) : (s.powerOn).adler = Config.adlerInit := rfl
@[simp] theorem State.powerOn_res (s : State) : (s.powerOn).res = Results.reset := rfl
@[simp] theorem State.powerOn_buf (s : State) : (s.powerOn).buf = [] := rfl
@[simp] theorem State.powerOn_bufEpoch (s : State) : (s.powerOn).bufEpoch = s.draws := rfl
@[simp] theorem State.powerOn_draws (s : State) : (s.powerOn).draws = s.draws + 1 := rfl
@[simp] theorem State.powerOn_held (s : State) : (s.powerOn).held = s.held := rfl
@[simp] theorem State.powerOn_arrivals (s : State) : (s.powerOn).arrivals = s.arrivals := rfl
@[simp] theorem State.powerOn_rsp (s : State) : (s.powerOn).rsp = none := rfl
@[simp] theorem State.powerOn_bufBytes (s : State) : (s.powerOn).bufBytes = s.bufBytes := rfl
@[simp] theorem State.powerOn_sig (s : State) : (s.powerOn).sig = s.sig := rfl

@[simp] theorem State.recordStream_par (s : State) (x : Bytes) : (s.recordStream x).par = s.par := rfl
@[simp] theorem State.recordStream_eng (s : State) (x : Bytes) : (s.recordStream x).eng = s.eng := rfl
@[simp] theorem State.recordStream_ie (s : State) (x : Bytes) : (s.recordStream x).ie = s.ie := rfl
@[simp] theorem State.recordStream_status (s : State) (x : Bytes) : (s.recordStream x).status = s.status := rfl
@[simp] theorem State.recordStream_opr (s : State) (x : Bytes) : (s.recordStream x).opr = s.opr := rfl
@[simp] theorem State.recordStream_crcState (s : State) (x : Bytes) : (s.recordStream x).crcState = s.crcState := rfl
@[simp] theorem State.recordStream_adler (s : State) (x : Bytes) : (s.recordStream x).adler = s.adler := rfl
@[simp] theorem State.recordStream_res (s : State) (x : Bytes) : (s.recordStream x).res = { s.res with zhdrIn := zhdrOf x, ztrailer := beword (x.drop (x.length - 4)) } := rfl
@[simp] theorem State.recordStream_buf (s : State) (x : Bytes) : (s.recordStream x).buf = s.buf := rfl
@[simp] theorem State.recordStream_bufEpoch (s : State) (x : Bytes) : (s.recordStream x).bufEpoch = s.bufEpoch := rfl
@[simp] theorem State.recordStream_draws (s : State) (x : Bytes) : (s.recordStream x).draws = s.draws := rfl
@[simp] theorem State.recordStream_held (s : State) (x : Bytes) : (s.recordStream x).held = s.held := rfl
@[simp] theorem State.recordStream_arrivals (s : State) (x : Bytes) : (s.recordStream x).arrivals = s.arrivals := rfl
@[simp] theorem State.recordStream_rsp (s : State) (x : Bytes) : (s.recordStream x).rsp = s.rsp := rfl
@[simp] theorem State.recordStream_bufBytes (s : State) (x : Bytes) : (s.recordStream x).bufBytes = s.bufBytes := rfl
@[simp] theorem State.recordStream_sig (s : State) (x : Bytes) : (s.recordStream x).sig = s.sig := rfl

@[simp] theorem State.recordUnwrap_par (s : State) (x r : Bytes) : (s.recordUnwrap x r).par = s.par := rfl
@[simp] theorem State.recordUnwrap_eng (s : State) (x r : Bytes) : (s.recordUnwrap x r).eng = s.eng := rfl
@[simp] theorem State.recordUnwrap_ie (s : State) (x r : Bytes) : (s.recordUnwrap x r).ie = s.ie := rfl
@[simp] theorem State.recordUnwrap_status (s : State) (x r : Bytes) : (s.recordUnwrap x r).status = { s.status with ztrlOk := decide (beword (x.drop (x.length - 4)) = adler32 r) } := rfl
@[simp] theorem State.recordUnwrap_opr (s : State) (x r : Bytes) : (s.recordUnwrap x r).opr = s.opr := rfl
@[simp] theorem State.recordUnwrap_crcState (s : State) (x r : Bytes) : (s.recordUnwrap x r).crcState = s.crcState := rfl
@[simp] theorem State.recordUnwrap_adler (s : State) (x r : Bytes) : (s.recordUnwrap x r).adler = s.adler := rfl
@[simp] theorem State.recordUnwrap_res (s : State) (x r : Bytes) : (s.recordUnwrap x r).res = { s.res with zhdrIn := zhdrOf x, ztrailer := beword (x.drop (x.length - 4)), zadlerCalc := adler32 r } := rfl
@[simp] theorem State.recordUnwrap_buf (s : State) (x r : Bytes) : (s.recordUnwrap x r).buf = s.buf := rfl
@[simp] theorem State.recordUnwrap_bufEpoch (s : State) (x r : Bytes) : (s.recordUnwrap x r).bufEpoch = s.bufEpoch := rfl
@[simp] theorem State.recordUnwrap_draws (s : State) (x r : Bytes) : (s.recordUnwrap x r).draws = s.draws := rfl
@[simp] theorem State.recordUnwrap_held (s : State) (x r : Bytes) : (s.recordUnwrap x r).held = s.held := rfl
@[simp] theorem State.recordUnwrap_arrivals (s : State) (x r : Bytes) : (s.recordUnwrap x r).arrivals = s.arrivals := rfl
@[simp] theorem State.recordUnwrap_rsp (s : State) (x r : Bytes) : (s.recordUnwrap x r).rsp = s.rsp := rfl
@[simp] theorem State.recordUnwrap_bufBytes (s : State) (x r : Bytes) : (s.recordUnwrap x r).bufBytes = s.bufBytes := rfl
@[simp] theorem State.recordUnwrap_sig (s : State) (x r : Bytes) : (s.recordUnwrap x r).sig = s.sig := rfl

@[simp] theorem State.recordChunk_par (s : State) : (s.recordChunk).par = s.par := rfl
@[simp] theorem State.recordChunk_eng (s : State) : (s.recordChunk).eng = s.eng := rfl
@[simp] theorem State.recordChunk_ie (s : State) : (s.recordChunk).ie = s.ie := rfl
@[simp] theorem State.recordChunk_opr (s : State) : (s.recordChunk).opr = s.opr := rfl
@[simp] theorem State.recordChunk_crcState (s : State) : (s.recordChunk).crcState = s.crcState := rfl
@[simp] theorem State.recordChunk_adler (s : State) : (s.recordChunk).adler = s.adler := rfl
@[simp] theorem State.recordChunk_buf (s : State) : (s.recordChunk).buf = s.buf := rfl
@[simp] theorem State.recordChunk_bufEpoch (s : State) : (s.recordChunk).bufEpoch = s.bufEpoch := rfl
@[simp] theorem State.recordChunk_draws (s : State) : (s.recordChunk).draws = s.draws := rfl
@[simp] theorem State.recordChunk_held (s : State) : (s.recordChunk).held = s.held := rfl
@[simp] theorem State.recordChunk_arrivals (s : State) : (s.recordChunk).arrivals = s.arrivals := rfl
@[simp] theorem State.recordChunk_rsp (s : State) : (s.recordChunk).rsp = s.rsp := rfl
@[simp] theorem State.recordChunk_bufBytes (s : State) : (s.recordChunk).bufBytes = s.bufBytes := rfl
@[simp] theorem State.recordChunk_sig (s : State) : (s.recordChunk).sig = s.sig := rfl

@[simp] theorem State.midError_par (s : State) (e : CmdError) : (s.midError e).par = s.par := rfl
@[simp] theorem State.midError_eng (s : State) (e : CmdError) : (s.midError e).eng = .idle := rfl
@[simp] theorem State.midError_ie (s : State) (e : CmdError) : (s.midError e).ie = s.ie := rfl
@[simp] theorem State.midError_status (s : State) (e : CmdError) : (s.midError e).status = { s.status with done := false, err := true, errcode := e.code } := rfl
@[simp] theorem State.midError_opr (s : State) (e : CmdError) : (s.midError e).opr = s.opr := rfl
@[simp] theorem State.midError_crcState (s : State) (e : CmdError) : (s.midError e).crcState = s.crcState := rfl
@[simp] theorem State.midError_adler (s : State) (e : CmdError) : (s.midError e).adler = s.adler := rfl
@[simp] theorem State.midError_res (s : State) (e : CmdError) : (s.midError e).res = s.res := rfl
@[simp] theorem State.midError_buf (s : State) (e : CmdError) : (s.midError e).buf = s.buf.store s.opr.dst.toNat ((List.range' s.opr.dst.toNat s.opr.dcap.toNat).map (Config.bufDraw s.draws)) := rfl
@[simp] theorem State.midError_bufEpoch (s : State) (e : CmdError) : (s.midError e).bufEpoch = s.bufEpoch := rfl
@[simp] theorem State.midError_draws (s : State) (e : CmdError) : (s.midError e).draws = s.draws + 1 := rfl
@[simp] theorem State.midError_held (s : State) (e : CmdError) : (s.midError e).held = s.held := rfl
@[simp] theorem State.midError_arrivals (s : State) (e : CmdError) : (s.midError e).arrivals = s.arrivals := rfl
@[simp] theorem State.midError_rsp (s : State) (e : CmdError) : (s.midError e).rsp = s.rsp := rfl
@[simp] theorem State.midError_bufBytes (s : State) (e : CmdError) : (s.midError e).bufBytes = s.bufBytes := rfl
@[simp] theorem State.midError_sig (s : State) (e : CmdError) : (s.midError e).sig = s.sig := rfl

@[simp] theorem State.recordChunk_done (s : State) : s.recordChunk.status.done = s.status.done := rfl
@[simp] theorem State.recordChunk_err (s : State) : s.recordChunk.status.err = s.status.err := rfl
@[simp] theorem State.recordChunk_ztrlOk (s : State) : s.recordChunk.status.ztrlOk = s.status.ztrlOk := rfl
@[simp] theorem State.acknowledge_crcOk (s : State) (v : Word) : (s.acknowledge v).status.crcOk = s.status.crcOk := rfl
@[simp] theorem State.acknowledge_ztrlOk (s : State) (v : Word) : (s.acknowledge v).status.ztrlOk = s.status.ztrlOk := rfl

end Sys2Proof.Machine
end

