-- ==== Sys2Proof/Laws/Checksum.lean ====
section
/-! SUPPORT. The shifts behind the CRC table: they are linear, and leave a word with zero low bits a plain shift. -/

namespace Sys2Proof.Machine

theorem crcShifts_xor (n : Nat) (a b : Word) : crcShifts n (a ^^^ b) = crcShifts n a ^^^ crcShifts n b := by
  induction n generalizing a b with
  | zero => rfl
  | succ n ih =>
    simp only [crcShifts]
    rw [← ih]
    congr 1
    unfold crcShift
    simp only [BitVec.getLsbD_xor]
    cases a.getLsbD 0 <;> cases b.getLsbD 0 <;> simp only [Bool.xor_false, Bool.xor_true, Bool.not_true, Bool.not_false, if_true, if_false, BitVec.ushiftRight_xor_distrib, Bool.false_eq_true]
    · ac_rfl
    · ac_rfl
    · rw [show (a >>> 1 ^^^ Config.poly ^^^ (b >>> 1 ^^^ Config.poly)) = (a >>> 1 ^^^ b >>> 1) ^^^ (Config.poly ^^^ Config.poly) from by ac_rfl]
      simp

theorem crcShifts_of_low_zero (n : Nat) (v : Word) (h : ∀ i, i < n → v.getLsbD i = false) : crcShifts n v = v >>> n := by
  induction n generalizing v with
  | zero => simp [crcShifts]
  | succ n ih =>
    have h0 := h 0 (by omega)
    simp only [crcShifts, crcShift, h0]
    rw [if_neg (by decide), ih, ← BitVec.shiftRight_add, Nat.add_comm]
    intro i hi
    rw [BitVec.getLsbD_ushiftRight]
    exact h _ (by omega)

theorem crcShifts_eq_repeat (n : Nat) (v : Word) : crcShifts n v = Nat.repeat (fun c => if c.getLsbD 0 then (c >>> 1) ^^^ 0xEDB88320 else c >>> 1) n v := by
  have hs : ∀ n (v : Word), crcShifts (n+1) v = crcShift (crcShifts n v) := by
    intro n
    induction n with
    | zero => intro v; rfl
    | succ n ih => intro v; rw [crcShifts, ih]; rfl
  induction n with
  | zero => rfl
  | succ n ih => rw [hs, ih]; rfl

end Sys2Proof.Machine
end

