-- ==== Sys2Proof/Laws/Encoding.lean ====
section
/-! SUPPORT. The fields of a command word as numbers, and the fields of an encoded command. -/

namespace Sys2Proof

theorem opcField_toNat (w : Word) : (opcField w).toNat = w.toNat % 256 := by
  simp [opcField, BitVec.extractLsb'_toNat]

theorem imm8Field_toNat (w : Word) : (imm8Field w).toNat = w.toNat / 256 % 256 := by
  simp [imm8Field, BitVec.extractLsb'_toNat, Nat.shiftRight_eq_div_pow]

theorem rsvField_toNat (w : Word) : (rsvField w).toNat = w.toNat / 65536 := by
  simp [rsvField, BitVec.extractLsb'_toNat, Nat.shiftRight_eq_div_pow]
  omega

theorem imm8Field_eq (w : Word) : imm8Field w = BitVec.ofNat 8 (w.toNat / 256 % 256) := by
  apply BitVec.eq_of_toNat_eq; rw [imm8Field_toNat]; simp

theorem rsvField_eq_zero (w : Word) : rsvField w = 0 ↔ w.toNat / 65536 = 0 := by
  rw [← rsvField_toNat]; constructor
  · intro h; rw [h]; rfl
  · intro h; exact BitVec.eq_of_toNat_eq (by simpa using h)

theorem imm8Field_eq_zero (w : Word) : imm8Field w = 0 ↔ w.toNat / 256 % 256 = 0 := by
  rw [← imm8Field_toNat]; constructor
  · intro h; rw [h]; rfl
  · intro h; exact BitVec.eq_of_toNat_eq (by simpa using h)

theorem opcField_eq (w : Word) (n : Nat) (h : w.toNat % 256 = n) : opcField w = BitVec.ofNat 8 n := by
  apply BitVec.eq_of_toNat_eq; rw [opcField_toNat]; simp; omega

theorem fieldsWord_toNat (a o : Byte) : BitVec.toNat (((0#16 ++ a) ++ o : BitVec (16+8+8))) = a.toNat * 256 + o.toNat := by
  rw [BitVec.toNat_append, BitVec.toNat_append, ← Nat.shiftLeft_add_eq_or_of_lt o.isLt, Nat.shiftLeft_eq]
  simp

theorem encode_toNat (i : Instr) : (encode i).toNat = i.imm8.toNat * 256 + i.opc.toNat := fieldsWord_toNat _ _

theorem rsvField_encode (i : Instr) : rsvField (encode i) = 0 := by
  rw [rsvField_eq_zero, encode_toNat]
  have := i.opc.isLt
  have := i.imm8.isLt
  omega

theorem opcField_encode (i : Instr) : opcField (encode i) = i.opc := by
  apply BitVec.eq_of_toNat_eq
  rw [opcField_toNat, encode_toNat]
  have := i.opc.isLt
  omega

theorem imm8Field_encode (i : Instr) : imm8Field (encode i) = i.imm8 := by
  apply BitVec.eq_of_toNat_eq
  rw [imm8Field_toNat, encode_toNat]
  have := i.opc.isLt
  have := i.imm8.isLt
  omega

end Sys2Proof
end

