-- ==== Sys2Proof/Laws/Memory.lean ====
section
/-! SUPPORT. The laws of BUF: what a store leaves at each offset, that every memory operation keeps the canonical form, and the
same for MemRead and MemWrite on states. -/

namespace Sys2Proof.Machine

theorem Memory.lookup_append (m n : Memory) (a : Nat) :
    Memory.lookup (m ++ n) a = (Memory.lookup m a).or (Memory.lookup n a) := by
  induction m with
  | nil => rfl
  | cons c m ih =>
    obtain ⟨k, b⟩ := c
    by_cases h : k = a <;> simp [Memory.lookup, h, ih]

theorem Memory.lookup_filter (m : Memory) (p : Nat → Bool) (a : Nat) :
    Memory.lookup (m.filter (fun c => p c.1)) a = if p a then Memory.lookup m a else none := by
  induction m with
  | nil => simp [Memory.lookup]
  | cons c m ih =>
    obtain ⟨k, b⟩ := c
    by_cases hk : k = a
    · subst hk
      by_cases hp : p k <;> simp [Memory.lookup, hp, ih]
    · by_cases hp : p k <;> simp [Memory.lookup, hp, ih, hk]

theorem Memory.lookup_cells (xs : Bytes) (a c : Nat) :
    Memory.lookup (Memory.cells a xs) c = if a ≤ c then xs[c - a]? else none := by
  induction xs generalizing a with
  | nil => simp [Memory.cells, Memory.lookup]
  | cons x xs ih =>
    by_cases h : a = c
    · subst h; simp [Memory.cells, Memory.lookup]
    · by_cases h' : a + 1 ≤ c
      · have h1 : c - a = (c - (a + 1)) + 1 := by omega
        have h2 : a ≤ c := by omega
        simp [Memory.cells, Memory.lookup, h, ih, h', h1, h2]
      · have h2 : ¬ a ≤ c := by omega
        simp [Memory.cells, Memory.lookup, h, ih, h', h2]

/-- What a store leaves at each offset: the stored byte inside the range, the old entry outside. -/
theorem Memory.lookup_store (m : Memory) (a : Nat) (xs : Bytes) (c : Nat) :
    Memory.lookup (m.store a xs) c =
      if a ≤ c ∧ c < a + xs.length then xs[c - a]? else Memory.lookup m c := by
  have h1 := Memory.lookup_filter m (fun k => decide (k < a)) c
  have h2 := Memory.lookup_filter m (fun k => decide (a + xs.length ≤ k)) c
  rw [Memory.store, Memory.lookup_append, Memory.lookup_append, h1, h2, Memory.lookup_cells]
  by_cases hlt : c < a
  · have : ¬ a ≤ c := by omega
    have : ¬ a + xs.length ≤ c := by omega
    simp [*]
  · have hle : a ≤ c := by omega
    by_cases hin : c < a + xs.length
    · have hn : ¬ a + xs.length ≤ c := by omega
      simp [hlt, hle, hin, hn]
    · have hn : a + xs.length ≤ c := by omega
      have hx : xs[c - a]? = none := by simp; omega
      simp [hlt, hle, hin, hn, hx]

theorem Memory.mem_cells {xs : Bytes} {a : Nat} {c : Host.Cell} (h : c ∈ Memory.cells a xs) :
    a ≤ c.1 ∧ c.1 < a + xs.length := by
  induction xs generalizing a with
  | nil => simp [Memory.cells] at h
  | cons x xs ih =>
    simp only [Memory.cells, List.mem_cons] at h
    rcases h with rfl | h
    · simp
    · have := ih h
      simp only [List.length_cons]
      omega

theorem Memory.cells_wf (xs : Bytes) (a : Nat) : Memory.wf (Memory.cells a xs) := by
  induction xs generalizing a with
  | nil => simp [Memory.cells]
  | cons x xs ih =>
    refine List.pairwise_cons.2 ⟨fun c hc => ?_, ih (a + 1)⟩
    have := Memory.mem_cells hc
    simp only
    omega

/-- A store keeps the canonical form. -/
theorem Memory.store_wf {m : Memory} (h : m.wf) (a : Nat) (xs : Bytes) : (m.store a xs).wf := by
  refine List.pairwise_append.2 ⟨h.filter _, List.pairwise_append.2 ⟨Memory.cells_wf xs a, h.filter _, ?_⟩, ?_⟩
  · intro c hc d hd
    have h1 := Memory.mem_cells hc
    have h2 : a + xs.length ≤ d.1 := by simpa using (List.mem_filter.1 hd).2
    omega
  · intro c hc d hd
    have h1 : c.1 < a := by simpa using (List.mem_filter.1 hc).2
    rcases List.mem_append.1 hd with hd | hd
    · have := Memory.mem_cells hd; omega
    · have h2 : a + xs.length ≤ d.1 := by simpa using (List.mem_filter.1 hd).2
      omega

/-- A store adds entries of its own range only. -/
theorem Memory.mem_store {m : Memory} {a : Nat} {xs : Bytes} {c : Host.Cell} (h : c ∈ m.store a xs) :
    c ∈ m ∨ (a ≤ c.1 ∧ c.1 < a + xs.length) := by
  rcases List.mem_append.1 h with h | h
  · exact .inl (List.mem_filter.1 h).1
  · rcases List.mem_append.1 h with h | h
    · exact .inr (Memory.mem_cells h)
    · exact .inl (List.mem_filter.1 h).1

/-- Reset memory has the canonical form. -/
theorem State.reset_buf_wf : State.reset.buf.wf := List.Pairwise.nil

/-- BUF after MemWrite, byte by byte. -/
theorem State.bufByte_memWrite (s : State) (a : Nat) (xs : Bytes) (c : Nat) :
    (s.memWrite a xs).bufByte c =
      if h : a ≤ c ∧ c < a + xs.length then xs[c - a]'(by omega) else s.bufByte c := by
  unfold State.bufByte
  rw [State.memWrite_buf, State.memWrite_bufEpoch, Memory.lookup_store]
  by_cases h : a ≤ c ∧ c < a + xs.length
  · have hlt : c - a < xs.length := by omega
    simp [h, hlt]
  · rw [if_neg h, dif_neg h]

/-- `bufByte` sees BUF and its epoch only. -/
theorem State.bufByte_congr {s t : State} (hb : t.buf = s.buf) (he : t.bufEpoch = s.bufEpoch) (c : Nat) :
    t.bufByte c = s.bufByte c := by unfold State.bufByte; rw [hb, he]

/-- `memRead` sees BUF and its epoch only. -/
theorem State.memRead_congr {s t : State} (hb : t.buf = s.buf) (he : t.bufEpoch = s.bufEpoch) (a n : Nat) :
    t.memRead a n = s.memRead a n := by
  unfold State.memRead
  exact List.map_congr_left fun c _ => State.bufByte_congr hb he c

@[simp] theorem State.memRead_length (s : State) (a n : Nat) : (s.memRead a n).length = n := by
  simp [State.memRead]

@[simp] theorem State.source_length (s : State) : s.source.length = s.opr.len.toNat := State.memRead_length _ _ _

theorem State.memRead_getElem (s : State) (a n i : Nat) (h : i < (s.memRead a n).length) :
    (s.memRead a n)[i] = s.bufByte (a + i) := by simp [State.memRead]

theorem State.memRead_append (s : State) (a m n : Nat) :
    s.memRead a (m + n) = s.memRead a m ++ s.memRead (a + m) n := by
  unfold State.memRead
  rw [← List.map_append, List.range'_append_1]

/-- MemRead of what MemWrite wrote. -/
theorem State.memRead_memWrite (s : State) (a : Nat) (xs : Bytes) :
    (s.memWrite a xs).memRead a xs.length = xs := by
  apply List.ext_getElem (by simp)
  intro i h1 h2
  rw [State.memRead_getElem, State.bufByte_memWrite]
  have : a ≤ a + i ∧ a + i < a + xs.length := by omega
  simp [h2]

/-- MemRead of bytes that read the same in both states. -/
theorem State.memRead_eq_of_bufByte {s t : State} {a n : Nat} (h : ∀ c, a ≤ c → c < a + n → t.bufByte c = s.bufByte c) :
    t.memRead a n = s.memRead a n := by
  unfold State.memRead
  refine List.map_congr_left fun c hc => ?_
  have := List.mem_range'_1.1 hc
  exact h c this.1 this.2

/-- BUF after `undefined(a, n)`: outside the range as before. -/
theorem State.bufByte_undefinedBytes_outside (s : State) (a n c : Nat) (h : c < a ∨ a + n ≤ c) :
    (s.undefinedBytes a n).bufByte c = s.bufByte c := by
  have e : (s.undefinedBytes a n).bufByte c
      = (s.memWrite a ((List.range' a n).map (Config.bufDraw s.draws))).bufByte c := rfl
  rw [e, State.bufByte_memWrite, dif_neg]
  simp only [List.length_map, List.length_range']
  omega

/-- BUF after `undefined(a, n)`: inside the range the fresh draws. -/
theorem State.bufByte_undefinedBytes_inside (s : State) (a n c : Nat) (h : a ≤ c ∧ c < a + n) :
    (s.undefinedBytes a n).bufByte c = Config.bufDraw s.draws c := by
  have e : (s.undefinedBytes a n).bufByte c
      = (s.memWrite a ((List.range' a n).map (Config.bufDraw s.draws))).bufByte c := rfl
  have h' : a ≤ c ∧ c < a + ((List.range' a n).map (Config.bufDraw s.draws)).length := by simpa using h
  rw [e, State.bufByte_memWrite, dif_pos h']
  simp only [List.getElem_map, List.getElem_range']
  congr 1
  omega

end Sys2Proof.Machine
end

