-- ==== Sys2Proof/Laws/HostBus.lean ====
section
/-! SUPPORT. What an access reaches, the host lanes, and what a soft reset does to BUF. -/

namespace Sys2Proof.Machine

theorem regAt_reserved {off : Nat} (h4 : off % 4 = 0) (h : off = 0x02C ∨ off = 0x03C ∨ off = 0x06C ∨ 0x07C ≤ off) : regAt off = none := by
  rw [regAt, List.lookup_eq_none_iff]
  intro p hp
  rw [bne_iff_ne]
  have : p.1 < 0x07C ∧ p.1 ≠ 0x02C ∧ p.1 ≠ 0x03C ∧ p.1 ≠ 0x06C := by
    revert p; decide +kernel
  omega

theorem regMap_offsets : ∀ p ∈ regMap, (BitVec.ofNat 17 p.1).toNat < 0x10000 ∧ (BitVec.ofNat 17 p.1).toNat % 4 = 0
    ∧ regAt (BitVec.ofNat 17 p.1).toNat = some p.2 := by decide +kernel

/-- An aligned word access at the offset of a register reaches it. -/
theorem HostAccess.target_register (a : HostAccess) (n : Nat) {r : Reg} (hs : a.size = .word)
    (h1 : a.off.toNat < 0x10000) (h4 : a.off.toNat % 4 = 0) (hr : regAt a.off.toNat = some r) : a.target n = .register r := by
  have hw : a.off.toNat < windowBase := h1
  simp only [HostAccess.target, hw, if_true, hs, AccessSize.bytes, h4, and_self, hr]

theorem be32_bytes (a b c d : Byte) : be32 (a ++ b ++ c ++ d : Word) = [a, b, c, d] := by
  have bits : ∀ (k : Nat) (x : Byte),
      (∀ i, i < 8 →
        (((a ++ b : BitVec (8 + 8)) ++ c : BitVec (8 + 8 + 8)) ++ d : BitVec (8 + 8 + 8 + 8)).getLsbD (k + i) = x.getLsbD i) →
      BitVec.extractLsb' k 8 (((a ++ b : BitVec (8 + 8)) ++ c : BitVec (8 + 8 + 8)) ++ d : BitVec (8 + 8 + 8 + 8)) = x := by
    intro k x h
    apply BitVec.eq_of_getLsbD_eq
    intro i hi
    rw [BitVec.getLsbD_extractLsb', h i hi]
    simp [hi]
  refine congrArg₂ List.cons (bits 24 a ?_) (congrArg₂ List.cons (bits 16 b ?_)
    (congrArg₂ List.cons (bits 8 c ?_) (congrArg₂ List.cons (bits 0 d ?_) rfl)))
  all_goals
    intro i hi
    simp only [BitVec.getLsbD_append]
  · rw [if_neg (by omega), if_neg (by omega), if_neg (by omega)]
    congr 1
    omega
  · rw [if_neg (by omega), if_neg (by omega), if_pos (by omega)]
    congr 1
    omega
  · rw [if_neg (by omega), if_pos (by omega)]
    congr 1
    omega
  · rw [if_pos (by omega)]
    congr 1
    omega

theorem HostAccess.target_busError (a : HostAccess) (n : Nat) (h : a.off.toNat < 0x10000 ∧ (a.size ≠ .word ∨ a.off.toNat % 4 ≠ 0)
      ∨ 0x10000 ≤ a.off.toNat ∧ (a.off.toNat % a.size.bytes ≠ 0 ∨ 0x10000 + n < a.off.toNat + a.size.bytes)) : a.target n = .busError := by
  unfold HostAccess.target
  have hw : windowBase = 0x10000 := rfl
  rcases h with ⟨h1, h2⟩ | ⟨h1, h2⟩
  · simp only
    rw [if_pos (by rw [hw]; exact h1), if_neg]
    rintro ⟨h3, h4⟩
    rcases h2 with h2 | h2
    · cases hs : a.size <;> rw [hs] at h2 h3 <;> first | exact h2 rfl | cases h3
    · exact h2 h4
  · simp only
    rw [if_neg (by rw [hw]; omega), if_neg]
    rw [hw]; omega

theorem HostAccess.target_buffer (a : HostAccess) (n b : Nat) (h : a.off.toNat = 0x10000 + b) (hd : b % a.size.bytes = 0) (hr : b + a.size.bytes ≤ n) : a.target n = .buffer b := by
  unfold HostAccess.target
  have hw : windowBase = 0x10000 := rfl
  simp only
  rw [if_neg (by rw [hw]; omega), if_pos]
  · rw [hw, h, Nat.add_sub_cancel_left]
  · rw [hw, h]
    refine ⟨?_, by omega⟩
    have : 0x10000 % a.size.bytes = 0 := by cases a.size <;> rfl
    rw [Nat.add_mod, this, hd]; simp

theorem leBytes_length (n : Nat) (v : Word) : (leBytes n v).length = n := by
  induction n generalizing v with
  | zero => rfl
  | succ n ih => simp [leBytes, ih]

theorem leBytes_getElem (n : Nat) (v : Word) (i : Nat) (h : i < (leBytes n v).length) : ((leBytes n v)[i]).toNat = v.toNat / 256 ^ i % 256 := by
  induction n generalizing v i with
  | zero => simp [leBytes] at h
  | succ n ih =>
    cases i with
    | zero => simp [leBytes]
    | succ i =>
      simp only [leBytes, List.getElem_cons_succ]
      rw [ih]
      rw [BitVec.toNat_ushiftRight, Nat.shiftRight_eq_div_pow, Nat.div_div_eq_div_mul]
      congr 2; rw [Nat.pow_succ]; omega

theorem leWord_toNat (xs : Bytes) (h : xs.length ≤ 4) : (leWord xs).toNat = ((List.range xs.length).map fun i => (xs[i]?.getD 0).toNat * 256 ^ i).sum ∧ (leWord xs).toNat < 256 ^ xs.length := by
  induction xs with
  | nil => simp [leWord]
  | cons x xs ih =>
    have hl : xs.length ≤ 3 := by simp at h; omega
    obtain ⟨i1, i2⟩ := ih (by omega)
    have hp : 256 ^ xs.length ≤ 256 ^ 3 := Nat.pow_le_pow_right (by decide) hl
    have e : (leWord (x :: xs)).toNat = x.toNat + 256 * (leWord xs).toNat := by
      simp only [leWord, BitVec.toNat_or, BitVec.toNat_shiftLeft, BitVec.toNat_setWidth]
      have hx := x.isLt
      rw [Nat.mod_eq_of_lt (show x.toNat < 2^32 by omega), Nat.shiftLeft_eq, Nat.mod_eq_of_lt (by omega), Nat.or_comm, ← Nat.shiftLeft_eq, ← Nat.shiftLeft_add_eq_or_of_lt (by omega), Nat.shiftLeft_eq]
      omega
    have hx := x.isLt
    constructor
    · rw [e, i1]
      rw [List.length_cons, List.range_succ_eq_map, List.map_cons, List.sum_cons, List.map_map]
      simp [Function.comp_def, pow_succ, ← List.sum_map_mul_left]
      congr 1; apply List.map_congr_left; intro a _; ring
    · rw [e, List.length_cons, Nat.pow_succ]; omega

theorem State.resetRegs_readReg (s : State) (r : Reg) : s.resetRegs.readReg r = (State.resetWith s.par).readReg r := by cases r <;> rfl

theorem State.dropPending_cases (s : State) : s.dropPending = s ∨ ∃ w i, s.eng = .pending w ∧ decode w = .cmd i ∧ writesDest i = true ∧
   s.dropPending = s.undefinedBytes s.opr.dst.toNat (min (s.opr.dst.toNat + s.opr.dcap.toNat) s.bufBytes - s.opr.dst.toNat) := by
  unfold State.dropPending
  split
  · exact .inl rfl
  · split
    · exact .inl rfl
    · split
      · rename_i w h1 _ i h2 h3; exact .inr ⟨w, i, h1, h2, h3, rfl⟩
      · exact .inl rfl

theorem State.writeReg_par (s : State) (r : Reg) (v : Word) : (s.writeReg r v).par = s.par := by
  cases r
  case ctrl =>
    show (s.writeCtrl v).par = _; unfold State.writeCtrl
    split
    · show s.dropPending.par = _
      rcases State.dropPending_cases s with h | ⟨w, i, _, _, _, h⟩ <;> rw [h]; rfl
    · rfl
  all_goals rfl

theorem State.perform_par (s : State) (a : HostAccess) : (s.perform a).par = s.par := by
  unfold State.perform State.performRead State.performWrite
  split <;> split <;> first | rfl | exact State.writeReg_par _ _ _

end Sys2Proof.Machine
end

