-- ==== Sys2Proof/Laws/Ops.lean ====
section
/-! SUPPORT. What the shared operations can do, once: the check lists, the lengths of what commands write, and an inversion of
`exec` that says everything a command can do to the state. -/

namespace Sys2Proof.Machine

/-! ### Checks -/

theorem firstError_none {cs : List Check} : firstError cs = none ↔ ∀ c ∈ cs, c.fails = false := by
  induction cs with
  | nil => simp [firstError]
  | cons c cs ih =>
    by_cases h : c.fails = true
    · simp [firstError, h]
    · simp [firstError, h, ih]

theorem firstError_some {cs : List Check} {e : CmdError} (h : firstError cs = some e) :
    ∃ c ∈ cs, c.fails = true ∧ c.error = e := by
  induction cs with
  | nil => simp [firstError] at h
  | cons c cs ih =>
    by_cases hc : c.fails = true
    · simp only [firstError, hc, if_true, Option.some.injEq] at h
      exact ⟨c, by simp, hc, h⟩
    · simp only [firstError, hc, Bool.false_eq_true, if_false] at h
      obtain ⟨d, hd, h1, h2⟩ := ih h
      exact ⟨d, List.mem_cons_of_mem _ hd, h1, h2⟩

/-- A guarded command raises the first failing check's error, or does its body. -/
theorem guarded_next {s t : State} {cs : List Check} {b : State} :
    guarded s cs b = .next t ↔
      (∃ e, firstError cs = some e ∧ t = s.raise e) ∨ (firstError cs = none ∧ t = b) := by
  unfold guarded
  cases h : firstError cs with
  | none => simp [eq_comm]
  | some e => simp [eq_comm]

/-- With every check passed, a guarded command does its body. -/
theorem guarded_body {s : State} {cs : List Check} {b : State} (h : ∀ c ∈ cs, c.fails = false) :
    guarded s cs b = .next b := guarded_next.2 (.inr ⟨firstError_none.2 h, rfl⟩)

/-- The error a guarded command raises is the error of one of its checks that fails. -/
theorem guarded_raise {s t : State} {cs : List Check} {b : State} (h : guarded s cs b = .next t) :
    (∃ c ∈ cs, c.fails = true ∧ t = s.raise c.error) ∨ ((∀ c ∈ cs, c.fails = false) ∧ t = b) := by
  rcases guarded_next.1 h with ⟨e, he, rfl⟩ | ⟨hn, rfl⟩
  · obtain ⟨c, hc, hf, rfl⟩ := firstError_some he
    exact .inl ⟨c, hc, hf, rfl⟩
  · exact .inr ⟨firstError_none.1 hn, rfl⟩

theorem firstError_append_fail {c : Check} (hc : c.fails = true) (post : List Check) :
    ∀ pre : List Check, (∀ d ∈ pre, d.fails = false) → firstError (pre ++ c :: post) = some c.error
  | [], _ => by simp [firstError, hc]
  | d :: pre, h => by
    have hd : d.fails = false := h d (by simp)
    have ih := firstError_append_fail hc post pre fun x hx => h x (List.mem_cons_of_mem _ hx)
    simp only [List.cons_append, firstError, hd, Bool.false_eq_true, if_false, ih]

/-- With the checks of `pre` passed and the next one failed, a guarded command raises that one's error. -/
theorem guarded_fails {s : State} {b : State} (pre : List Check) (c : Check) (post : List Check)
    (hpre : ∀ d ∈ pre, d.fails = false) (hc : c.fails = true) :
    guarded s (pre ++ c :: post) b = .next (s.raise c.error) :=
  guarded_next.2 (.inl ⟨_, firstError_append_fail hc post pre hpre, rfl⟩)

/-- A check that does not pass fails. -/
theorem fails_of_not {c : Check} (h : ¬c.fails = false) : c.fails = true := by
  cases hc : c.fails
  · exact absurd hc h
  · rfl

@[simp] theorem srcCheck_fails (s : State) : s.srcCheck.fails = false ↔ s.SrcInRange := by
  simp [State.srcCheck]

@[simp] theorem dstCheck_fails (s : State) : s.dstCheck.fails = false ↔ s.DstInRange := by
  simp [State.dstCheck]

@[simp] theorem ceilCheck_fails (s : State) : s.ceilCheck.fails = false ↔ s.opr.ceil ≠ 0 := by
  simp [State.ceilCheck]

@[simp] theorem overlapCheck_fails (s : State) : s.overlapCheck.fails = false ↔ s.Apart := by
  simp only [State.overlapCheck, State.overlaps, State.Apart, decide_eq_false_iff_not]
  omega

@[simp] theorem capCheck_fails (s : State) (n : Nat) : (s.capCheck n).fails = false ↔ n ≤ s.opr.dcap.toNat := by
  simp [State.capCheck]

@[simp] theorem ztruncCheck_fails (s : State) : s.ztruncCheck.fails = false ↔ 6 ≤ s.opr.len.toNat := by
  simp [State.ztruncCheck]

@[simp] theorem sigShortCheck_fails (s : State) : s.sigShortCheck.fails = false ↔ 8 ≤ s.opr.len.toNat := by
  simp [State.sigShortCheck]

@[simp] theorem sigDiffersCheck_fails (s : State) :
    s.sigDiffersCheck.fails = false ↔ s.memRead s.opr.src.toNat 8 = s.sig := by
  simp [State.sigDiffersCheck]

@[simp] theorem chunkShortCheck_fails (s : State) : s.chunkShortCheck.fails = false ↔ 12 ≤ s.opr.len.toNat := by
  simp [State.chunkShortCheck]

@[simp] theorem chunkRunsPastCheck_fails (s : State) :
    s.chunkRunsPastCheck.fails = false ↔ 12 + s.chunkLen ≤ s.opr.len.toNat := by
  simp [State.chunkRunsPastCheck]

@[simp] theorem srcCheck_error (s : State) : s.srcCheck.error = .srcRange := rfl
@[simp] theorem dstCheck_error (s : State) : s.dstCheck.error = .dstRange := rfl
@[simp] theorem ceilCheck_error (s : State) : s.ceilCheck.error = .param := rfl
@[simp] theorem overlapCheck_error (s : State) : s.overlapCheck.error = .overlap := rfl
@[simp] theorem capCheck_error (s : State) (n : Nat) : (s.capCheck n).error = .overflow := rfl
@[simp] theorem ztruncCheck_error (s : State) : s.ztruncCheck.error = .ztrunc := rfl
@[simp] theorem sigShortCheck_error (s : State) : s.sigShortCheck.error = .format := rfl
@[simp] theorem sigDiffersCheck_error (s : State) : s.sigDiffersCheck.error = .format := rfl
@[simp] theorem chunkShortCheck_error (s : State) : s.chunkShortCheck.error = .ctrunc := rfl
@[simp] theorem chunkRunsPastCheck_error (s : State) : s.chunkRunsPastCheck.error = .ctrunc := rfl

/-! ### Lengths -/

@[simp] theorem be32_length (v : Word) : (be32 v).length = 4 := rfl
@[simp] theorem zhdrBytes_length (z : BitVec 16) : (zhdrBytes z).length = 2 := rfl
@[simp] theorem State.sig_length (s : State) : s.sig.length = 8 := by simp [State.sig]
theorem State.bufBytes_le (s : State) : s.bufBytes ≤ 65536 := Nat.le_of_lt_succ s.par.bufBytes.isLt

theorem be32_beword (v : Word) (rest : Bytes) : beword (be32 v ++ rest) = v := by
  have h : beword (be32 v ++ rest)
      = v.extractLsb' 24 8 ++ v.extractLsb' 16 8 ++ v.extractLsb' 8 8 ++ v.extractLsb' 0 8 := rfl
  rw [h]
  apply BitVec.eq_of_getLsbD_eq
  intro i hi
  simp only [BitVec.getLsbD_append, BitVec.getLsbD_extractLsb']
  by_cases h1 : i < 8
  · simp [h1]
  · by_cases h2 : i < 16
    · have e1 : i - 8 < 8 := by omega
      have e2 : 8 + (i - 8) = i := by omega
      simp [h1, e1, e2]
    · by_cases h3 : i < 24
      · have e1 : ¬ i - 8 < 8 := by omega
        have e2 : i - 8 - 8 < 8 := by omega
        have e3 : 16 + (i - 8 - 8) = i := by omega
        simp [h1, e1, e2, e3]
      · have e1 : ¬ i - 8 < 8 := by omega
        have e2 : ¬ i - 8 - 8 < 8 := by omega
        have e3 : i - 8 - 8 - 8 < 8 := by omega
        have e4 : 24 + (i - 8 - 8 - 8) = i := by omega
        simp [h1, e1, e2, e3, e4]

theorem slice_length (x : Bytes) (i j : Nat) (h : j ≤ x.length) : (slice x i j).length = j - i := by
  simp only [slice, List.length_take, List.length_drop]
  omega

theorem zlibStream_length (z : BitVec 16) (p : Bytes) (v : Word) : (zlibStream z p v).length = p.length + 6 := by
  simp [zlibStream]
  omega

theorem zlibPayload_length (x : Bytes) : (zlibPayload x).length = x.length - 6 := by
  rw [zlibPayload, slice_length _ _ _ (by omega)]
  omega

theorem chunkBytes_length (tag : Word) (p : Bytes) : (chunkBytes tag p).length = p.length + 12 := by
  simp [chunkBytes]
  omega

/-- `splitCount` is the least number of parts that covers the stream. -/
theorem splitCount_spec {len ceil : Nat} (h : 0 < ceil) :
    len ≤ splitCount len ceil * ceil ∧ ∀ m, len ≤ m * ceil → splitCount len ceil ≤ m := by
  unfold splitCount
  constructor
  · have h1 := Nat.div_add_mod (len + ceil - 1) ceil
    have h2 := Nat.mod_lt (len + ceil - 1) h
    rw [Nat.mul_comm] at h1
    omega
  · intro m hm
    have : (len + ceil - 1) / ceil < m + 1 := by
      rw [Nat.div_lt_iff_lt_mul h, Nat.add_mul]
      omega
    omega

/-- A part before the last of the stream starts inside it. -/
theorem splitCount_start {len ceil k : Nat} (h : 0 < ceil) (hk : k < splitCount len ceil) : k * ceil < len := by
  by_contra hc
  have := (splitCount_spec (len := len) h).2 k (by omega)
  omega

theorem splitPart_length (c : Bytes) (ceil k : Nat) :
    (splitPart c ceil k).length = min ((k + 1) * ceil) c.length - k * ceil :=
  slice_length _ _ _ (Nat.min_le_right _ _)

/-- The first `m` parts, joined, are the stream's first bytes. -/
theorem splitPart_join (c : Bytes) {ceil : Nat} (h : 0 < ceil) (m : Nat) (hm : m ≤ splitCount c.length ceil) :
    ((List.range m).flatMap (splitPart c ceil)) = c.take (m * ceil) := by
  induction m with
  | zero => simp
  | succ m ih =>
    have hs := splitCount_start (len := c.length) h (k := m) (by omega)
    rw [List.range_succ, List.flatMap_append, ih (by omega)]
    simp only [List.flatMap_cons, List.flatMap_nil, List.append_nil, splitPart, slice]
    have e : c.take ((m + 1) * ceil) = c.take (min ((m + 1) * ceil) c.length) := by
      rcases Nat.le_total ((m + 1) * ceil) c.length with h1 | h1
      · rw [Nat.min_eq_left h1]
      · rw [Nat.min_eq_right h1, List.take_of_length_le h1, List.take_length]
    have e2 : min ((m + 1) * ceil) c.length = m * ceil + (min ((m + 1) * ceil) c.length - m * ceil) := by
      have : m * ceil ≤ (m + 1) * ceil := Nat.mul_le_mul_right _ (by omega)
      omega
    rw [e, e2, List.take_add]
    simp

theorem splitPart_join_all (c : Bytes) {ceil : Nat} (h : 0 < ceil) :
    ((List.range (splitCount c.length ceil)).flatMap (splitPart c ceil)) = c := by
  rw [splitPart_join c h _ (Nat.le_refl _), List.take_of_length_le (splitCount_spec h).1]

theorem flatMap_chunkBytes_length (tag : Word) (f : Nat → Bytes) (m : Nat) :
    ((List.range m).flatMap fun k => chunkBytes tag (f k)).length = ((List.range m).flatMap f).length + 12 * m := by
  induction m with
  | zero => simp
  | succ m ih =>
    rw [List.range_succ, List.flatMap_append, List.flatMap_append, List.length_append, List.length_append, ih]
    simp [chunkBytes_length]
    omega

theorem splitBytes_length (tag : Word) (c : Bytes) {ceil : Nat} (h : 0 < ceil) :
    (splitBytes tag c ceil).length = c.length + 12 * splitCount c.length ceil := by
  have e : splitBytes tag c ceil
      = (List.range (splitCount c.length ceil)).flatMap fun k => chunkBytes tag (splitPart c ceil k) := rfl
  rw [e, flatMap_chunkBytes_length, splitPart_join_all c h]

theorem ceil_pos {s : State} (h : s.opr.ceil ≠ 0) : 0 < s.opr.ceil.toNat := by
  rcases Nat.eq_zero_or_pos s.opr.ceil.toNat with h0 | h0
  · exact absurd (BitVec.eq_of_toNat_eq (by simpa using h0)) h
  · exact h0

/-! ### Everything a command can do -/

/-- What a command without error may have changed, before its successful end. -/
structure Committed (i : Instr) (s u : State) : Prop where
  par : u.par = s.par
  opr : u.opr = s.opr
  ie : u.ie = s.ie
  held : u.held = s.held
  arrivals : u.arrivals = s.arrivals
  rsp : u.rsp = s.rsp
  bufEpoch : u.bufEpoch = s.bufEpoch
  draws : u.draws = s.draws
  crcOk : i ≠ .chunkParse → u.status.crcOk = s.status.crcOk
  ztrlOk : i ≠ .zunwrap → u.status.ztrlOk = s.status.ztrlOk
  buf : if writesDest i = true then
      ∃ out : Bytes, out.length ≤ s.opr.dcap.toNat ∧ s.DstInRange ∧ u.buf = s.buf.store s.opr.dst.toNat out
        ∧ u.res.outlen = BitVec.ofNat 32 out.length
    else u.buf = s.buf
  regs : ∀ r, r ≠ .status → r ∉ resultRegs i → u.readReg r = s.readReg r

theorem committed_emit {i : Instr} {s u : State} {out : Bytes} (hw : writesDest i = true)
    (hd : s.DstInRange) (hc : out.length ≤ s.opr.dcap.toNat)
    (hu : u = { s.emit out with res := u.res, status := u.status })
    (ho : u.res.outlen = BitVec.ofNat 32 out.length)
    (h1 : i ≠ .chunkParse → u.status.crcOk = s.status.crcOk)
    (h2 : i ≠ .zunwrap → u.status.ztrlOk = s.status.ztrlOk)
    (hr : ∀ r, r ≠ .status → r ∉ resultRegs i → u.readReg r = s.readReg r) : Committed i s u where
  par := by rw [hu]; rfl
  opr := by rw [hu]; rfl
  ie := by rw [hu]; rfl
  held := by rw [hu]; rfl
  arrivals := by rw [hu]; rfl
  rsp := by rw [hu]; rfl
  bufEpoch := by rw [hu]; rfl
  draws := by rw [hu]; rfl
  crcOk := h1
  ztrlOk := h2
  buf := by rw [if_pos hw]; exact ⟨out, hc, hd, by rw [hu]; rfl, ho⟩
  regs := hr

/-- The three ends of a command: an error before the body, a mid-operation error of ZWRAP or ZUNWRAP, or success. -/
theorem exec_cases {i : Instr} {s t : State} (h : exec i s = .next t) :
    (∃ e : CmdError, e.code ∈ errorsOf i ∧ t = s.raise e)
    ∨ (∃ e : CmdError, ((i = .zwrap ∧ e = .overflow) ∨ (i = .zunwrap ∧ (e = .overflow ∨ e = .inflate)))
        ∧ s.DstInRange ∧ t = s.midError e)
    ∨ (∃ u : State, Committed i s u ∧ t = u.finish) := by
  cases i <;> simp only [exec, execNop, execCrcInit, execCrcUpdate, execCrcUpdateImm, execCrc32, execAdlerInit,
      execAdlerUpdate, execAdlerUpdateImm, execAdler32, execZwrap, execZwrapWith, execZunwrap, execZunwrapWith, execZframe,
      execZstrip, execSigEmit, execSigCheck, execChunkEmit, execChunkParse, execChunkSplit] at h
    <;> rcases guarded_raise h with ⟨c, hc, hf, rfl⟩ | ⟨hp, rfl⟩
  case nop.inr =>
    refine .inr (.inr ⟨_, ?_, rfl⟩)
    refine ⟨rfl, rfl, rfl, rfl, rfl, rfl, rfl, rfl, fun _ => rfl, fun _ => rfl, rfl, fun r h1 h2 => ?_⟩
    cases r <;> simp [resultRegs] at h1 h2 <;> rfl
  case sigCheck.inr =>
    refine .inr (.inr ⟨_, ?_, rfl⟩)
    refine ⟨rfl, rfl, rfl, rfl, rfl, rfl, rfl, rfl, fun _ => rfl, fun _ => rfl, rfl, fun r h1 h2 => ?_⟩
    cases r <;> simp [resultRegs] at h1 h2 <;> rfl
  case crcInit.inr =>
    refine .inr (.inr ⟨_, ?_, rfl⟩)
    refine ⟨rfl, rfl, rfl, rfl, rfl, rfl, rfl, rfl, fun _ => rfl, fun _ => rfl, rfl, fun r h1 h2 => ?_⟩
    cases r <;> simp [resultRegs] at h1 h2 <;> rfl
  case crcUpdate.inr =>
    refine .inr (.inr ⟨_, ?_, rfl⟩)
    refine ⟨rfl, rfl, rfl, rfl, rfl, rfl, rfl, rfl, fun _ => rfl, fun _ => rfl, rfl, fun r h1 h2 => ?_⟩
    cases r <;> simp [resultRegs] at h1 h2 <;> rfl
  case crcUpdateImm.inr =>
    refine .inr (.inr ⟨_, ?_, rfl⟩)
    refine ⟨rfl, rfl, rfl, rfl, rfl, rfl, rfl, rfl, fun _ => rfl, fun _ => rfl, rfl, fun r h1 h2 => ?_⟩
    cases r <;> simp [resultRegs] at h1 h2 <;> rfl
  case crc32.inr =>
    refine .inr (.inr ⟨_, ?_, rfl⟩)
    refine ⟨rfl, rfl, rfl, rfl, rfl, rfl, rfl, rfl, fun _ => rfl, fun _ => rfl, rfl, fun r h1 h2 => ?_⟩
    cases r <;> simp [resultRegs] at h1 h2 <;> rfl
  case adlerInit.inr =>
    refine .inr (.inr ⟨_, ?_, rfl⟩)
    refine ⟨rfl, rfl, rfl, rfl, rfl, rfl, rfl, rfl, fun _ => rfl, fun _ => rfl, rfl, fun r h1 h2 => ?_⟩
    cases r <;> simp [resultRegs] at h1 h2 <;> rfl
  case adlerUpdate.inr =>
    refine .inr (.inr ⟨_, ?_, rfl⟩)
    refine ⟨rfl, rfl, rfl, rfl, rfl, rfl, rfl, rfl, fun _ => rfl, fun _ => rfl, rfl, fun r h1 h2 => ?_⟩
    cases r <;> simp [resultRegs] at h1 h2 <;> rfl
  case adlerUpdateImm.inr =>
    refine .inr (.inr ⟨_, ?_, rfl⟩)
    refine ⟨rfl, rfl, rfl, rfl, rfl, rfl, rfl, rfl, fun _ => rfl, fun _ => rfl, rfl, fun r h1 h2 => ?_⟩
    cases r <;> simp [resultRegs] at h1 h2 <;> rfl
  case adler32.inr =>
    refine .inr (.inr ⟨_, ?_, rfl⟩)
    refine ⟨rfl, rfl, rfl, rfl, rfl, rfl, rfl, rfl, fun _ => rfl, fun _ => rfl, rfl, fun r h1 h2 => ?_⟩
    cases r <;> simp [resultRegs] at h1 h2 <;> rfl
  case chunkParse.inr =>
    refine .inr (.inr ⟨_, ?_, rfl⟩)
    refine ⟨rfl, rfl, rfl, rfl, rfl, rfl, rfl, rfl, fun h => absurd rfl h, fun _ => rfl, rfl, fun r h1 h2 => ?_⟩
    cases r <;> simp [resultRegs] at h1 h2 <;> rfl
  case zwrap.inr =>
    have hd : s.DstInRange := (dstCheck_fails s).1 (hp _ (by simp))
    unfold zwrapBody
    by_cases hc : s.opr.dcap.toNat < (zwrapOutput Config.transform s).length
    · rw [if_pos hc]
      exact .inr (.inl ⟨.overflow, .inl ⟨rfl, rfl⟩, hd, rfl⟩)
    · rw [if_neg hc]
      refine .inr (.inr ⟨_, ?_, rfl⟩)
      refine committed_emit rfl hd (Nat.le_of_not_lt hc) rfl rfl (fun _ => rfl) (fun _ => rfl) fun r h1 h2 => ?_
      cases r <;> simp [resultRegs] at h1 h2 <;> rfl
  case zunwrap.inr =>
    have hd : s.DstInRange := (dstCheck_fails s).1 (hp _ (by simp))
    unfold zunwrapBody
    cases hI : Config.transform.inflate (zlibPayload s.source) with
    | none => exact .inr (.inl ⟨.inflate, .inr ⟨rfl, .inr rfl⟩, hd, rfl⟩)
    | some r =>
      by_cases hc : s.opr.dcap.toNat < r.length
      · simp only [if_pos hc]
        exact .inr (.inl ⟨.overflow, by simp, hd, rfl⟩)
      · simp only [if_neg hc]
        refine .inr (.inr ⟨_, ?_, rfl⟩)
        refine committed_emit rfl hd (Nat.le_of_not_lt hc) rfl rfl (fun _ => rfl) (fun h => absurd rfl h) fun r h1 h2 => ?_
        cases r <;> simp [resultRegs] at h1 h2 <;> rfl
  case zframe.inr =>
    have hd : s.DstInRange := (dstCheck_fails s).1 (hp _ (by simp))
    have hc := (capCheck_fails s _).1 (hp (s.capCheck (s.opr.len.toNat + 6)) (by simp))
    refine .inr (.inr ⟨_, ?_, rfl⟩)
    refine committed_emit rfl hd (by rw [zlibStream_length]; simpa using hc) rfl rfl (fun _ => rfl) (fun _ => rfl) fun r h1 h2 => ?_
    cases r <;> simp [resultRegs] at h1 h2 <;> rfl
  case zstrip.inr =>
    have hd : s.DstInRange := (dstCheck_fails s).1 (hp _ (by simp))
    have hc := (capCheck_fails s _).1 (hp (s.capCheck (s.opr.len.toNat - 6)) (by simp))
    refine .inr (.inr ⟨_, ?_, rfl⟩)
    refine committed_emit rfl hd (by rw [zlibPayload_length]; simpa using hc) rfl rfl (fun _ => rfl) (fun _ => rfl) fun r h1 h2 => ?_
    cases r <;> simp [resultRegs] at h1 h2 <;> rfl
  case sigEmit.inr =>
    have hd : s.DstInRange := (dstCheck_fails s).1 (hp _ (by simp))
    have hc := (capCheck_fails s _).1 (hp (s.capCheck (8)) (by simp))
    refine .inr (.inr ⟨_, ?_, rfl⟩)
    refine committed_emit rfl hd (by rw [State.sig_length]; simpa using hc) rfl rfl (fun _ => rfl) (fun _ => rfl) fun r h1 h2 => ?_
    cases r <;> simp [resultRegs] at h1 h2 <;> rfl
  case chunkEmit.inr =>
    have hd : s.DstInRange := (dstCheck_fails s).1 (hp _ (by simp))
    have hc := (capCheck_fails s _).1 (hp (s.capCheck (s.opr.len.toNat + 12)) (by simp))
    refine .inr (.inr ⟨_, ?_, rfl⟩)
    refine committed_emit rfl hd (by rw [chunkBytes_length]; simpa using hc) rfl rfl (fun _ => rfl) (fun _ => rfl) fun r h1 h2 => ?_
    cases r <;> simp [resultRegs] at h1 h2 <;> rfl
  case chunkSplit.inr =>
    have hd : s.DstInRange := (dstCheck_fails s).1 (hp _ (by simp))
    have hz := (ceilCheck_fails s).1 (hp _ (by simp))
    have hc := (capCheck_fails s _).1
      (hp (s.capCheck (s.opr.len.toNat + 12 * splitCount s.opr.len.toNat s.opr.ceil.toNat)) (by simp))
    refine .inr (.inr ⟨_, ?_, rfl⟩)
    refine committed_emit rfl hd (by rw [splitBytes_length _ _ (ceil_pos hz)]; simpa using hc) rfl rfl (fun _ => rfl) (fun _ => rfl) fun r h1 h2 => ?_
    cases r <;> simp [resultRegs] at h1 h2 <;> rfl
  all_goals
    refine .inl ⟨c.error, ?_, rfl⟩
    clear hf
    revert c
    simp [errorsOf, CmdError.code]

end Sys2Proof.Machine
end

