-- ==== Sys2Proof/Laws/PerInstr.lean ====
section
/-! SUPPORT. Per-instruction family EncodedFields: the three fields of each command's word (30_encoding.md R110, R112, R114). -/

/-- RSV is 0, OPC is the command's opcode, IMM8 its byte (0 for a command without one). -/
def Sys2Proof.Laws.EncodedFields.Statement (i : Sys2Proof.Instr) : Prop :=
  Sys2Proof.rsvField (Sys2Proof.encode i) = 0
    ∧ Sys2Proof.opcField (Sys2Proof.encode i) = i.opc
    ∧ Sys2Proof.imm8Field (Sys2Proof.encode i) = i.imm8

theorem Sys2Proof.Laws.EncodedFields.all (i : Sys2Proof.Instr) : Sys2Proof.Laws.EncodedFields.Statement i :=
  ⟨Sys2Proof.rsvField_encode i, Sys2Proof.opcField_encode i, Sys2Proof.imm8Field_encode i⟩

theorem Sys2Proof.Laws.EncodedFields.nop :
    Sys2Proof.Laws.EncodedFields.Statement .nop := Sys2Proof.Laws.EncodedFields.all _

theorem Sys2Proof.Laws.EncodedFields.crcInit :
    Sys2Proof.Laws.EncodedFields.Statement .crcInit := Sys2Proof.Laws.EncodedFields.all _

theorem Sys2Proof.Laws.EncodedFields.crcUpdate :
    Sys2Proof.Laws.EncodedFields.Statement .crcUpdate := Sys2Proof.Laws.EncodedFields.all _

theorem Sys2Proof.Laws.EncodedFields.crcUpdateImm (imm8 : Sys2Proof.Byte) :
    Sys2Proof.Laws.EncodedFields.Statement (.crcUpdateImm imm8) := Sys2Proof.Laws.EncodedFields.all _

theorem Sys2Proof.Laws.EncodedFields.crc32 :
    Sys2Proof.Laws.EncodedFields.Statement .crc32 := Sys2Proof.Laws.EncodedFields.all _

theorem Sys2Proof.Laws.EncodedFields.adlerInit :
    Sys2Proof.Laws.EncodedFields.Statement .adlerInit := Sys2Proof.Laws.EncodedFields.all _

theorem Sys2Proof.Laws.EncodedFields.adlerUpdate :
    Sys2Proof.Laws.EncodedFields.Statement .adlerUpdate := Sys2Proof.Laws.EncodedFields.all _

theorem Sys2Proof.Laws.EncodedFields.adlerUpdateImm (imm8 : Sys2Proof.Byte) :
    Sys2Proof.Laws.EncodedFields.Statement (.adlerUpdateImm imm8) := Sys2Proof.Laws.EncodedFields.all _

theorem Sys2Proof.Laws.EncodedFields.adler32 :
    Sys2Proof.Laws.EncodedFields.Statement .adler32 := Sys2Proof.Laws.EncodedFields.all _

theorem Sys2Proof.Laws.EncodedFields.zwrap :
    Sys2Proof.Laws.EncodedFields.Statement .zwrap := Sys2Proof.Laws.EncodedFields.all _

theorem Sys2Proof.Laws.EncodedFields.zunwrap :
    Sys2Proof.Laws.EncodedFields.Statement .zunwrap := Sys2Proof.Laws.EncodedFields.all _

theorem Sys2Proof.Laws.EncodedFields.zframe :
    Sys2Proof.Laws.EncodedFields.Statement .zframe := Sys2Proof.Laws.EncodedFields.all _

theorem Sys2Proof.Laws.EncodedFields.zstrip :
    Sys2Proof.Laws.EncodedFields.Statement .zstrip := Sys2Proof.Laws.EncodedFields.all _

theorem Sys2Proof.Laws.EncodedFields.sigEmit :
    Sys2Proof.Laws.EncodedFields.Statement .sigEmit := Sys2Proof.Laws.EncodedFields.all _

theorem Sys2Proof.Laws.EncodedFields.sigCheck :
    Sys2Proof.Laws.EncodedFields.Statement .sigCheck := Sys2Proof.Laws.EncodedFields.all _

theorem Sys2Proof.Laws.EncodedFields.chunkEmit :
    Sys2Proof.Laws.EncodedFields.Statement .chunkEmit := Sys2Proof.Laws.EncodedFields.all _

theorem Sys2Proof.Laws.EncodedFields.chunkParse :
    Sys2Proof.Laws.EncodedFields.Statement .chunkParse := Sys2Proof.Laws.EncodedFields.all _

theorem Sys2Proof.Laws.EncodedFields.chunkSplit :
    Sys2Proof.Laws.EncodedFields.Statement .chunkSplit := Sys2Proof.Laws.EncodedFields.all _
end

