-- ==== Sys2Proof/Laws/Step.lean ====
section
/-! SUPPORT. What one step can do: an event that is due, or the move of the block. -/

namespace Sys2Proof.Machine

theorem State.ticked_fields (s : State) : s.ticked.eng = s.eng ∧ s.ticked.held = s.held ∧ s.ticked.status = s.status ∧ s.ticked.buf = s.buf
   ∧ s.ticked = {s with arrivals := s.ticked.arrivals} := by
  unfold State.ticked; split <;> simp

theorem step_noneDue (s : State) (h : s.NoneDue) : step s = s.ticked.blockMove := by
  unfold step State.advance State.ticked
  cases ha : s.arrivals with
  | nil => rfl
  | cons e es =>
    have := h e es ha
    obtain ⟨d, ev⟩ := e
    cases d with
    | zero => simp at this
    | succ d => rfl

end Sys2Proof.Machine
end

