-- ==== Sys2Proof/Laws/Streams.lean ====
section
/-! SUPPORT. Pieces of byte strings: parts of MemRead, the parts of a zlib stream, offsets and output lengths. -/

namespace Sys2Proof.Machine

theorem offset_add (d : Word) (n : Nat) : d + BitVec.ofNat 32 n = BitVec.ofNat 32 (d.toNat + n) := by
  apply BitVec.eq_of_toNat_eq; simp

theorem outlen_toNat {s : State} {n : Nat} (h : n ≤ s.opr.dcap.toNat) : (BitVec.ofNat 32 n).toNat = n := by
  have := s.opr.dcap.isLt
  simp; omega

theorem State.slice_memRead (s : State) (a n i j : Nat) (h : j ≤ n) : slice (s.memRead a n) i j = s.memRead (a+i) (j-i) := by
  apply List.ext_getElem
  · simp [slice, State.memRead]; omega
  · intro k h1 h2
    simp [slice, State.memRead, List.getElem_take, List.getElem_drop, Nat.add_assoc]

theorem State.drop_memRead (s : State) (a n i : Nat) : (s.memRead a n).drop i = s.memRead (a+i) (n-i) := by
  unfold State.memRead
  rw [← List.map_drop, List.drop_range', Nat.mul_one]

theorem State.zhdrOf_memRead (s : State) (a n : Nat) (h : 2 ≤ n) : zhdrOf (s.memRead a n) = s.bufByte a ++ s.bufByte (a+1) := by
  obtain ⟨m, rfl⟩ : ∃ m, n = m + 2 := ⟨n - 2, by omega⟩
  rfl

theorem State.trailer_memRead (s : State) (a n : Nat) (h : 6 ≤ n) : (s.memRead a n).drop ((s.memRead a n).length - 4) = s.memRead (a + n - 4) 4 := by
  rw [State.memRead_length, State.drop_memRead]
  congr 1 <;> omega

theorem State.zlibPayload_memRead (s : State) (a n : Nat) (h : 6 ≤ n) : zlibPayload (s.memRead a n) = s.memRead (a+2) (n-6) := by
  unfold zlibPayload
  rw [State.memRead_length, State.slice_memRead _ _ _ _ _ (by omega)]
  congr 1

theorem zlibPayload_zlibStream (z : BitVec 16) (p : Bytes) (v : Word) : zlibPayload (zlibStream z p v) = p := by
  unfold zlibPayload slice
  rw [zlibStream_length]
  have : zlibStream z p v = zhdrBytes z ++ (p ++ be32 v) := by simp [zlibStream]
  rw [this, List.drop_left' (by rfl), List.take_left' (by omega)]

theorem zhdrOf_zlibStream (z : BitVec 16) (p : Bytes) (v : Word) : zhdrOf (zlibStream z p v) = z := by
  show (z.extractLsb' 8 8 ++ z.extractLsb' 0 8 : BitVec 16) = z
  apply BitVec.eq_of_getLsbD_eq
  intro i hi
  simp only [BitVec.getLsbD_append, BitVec.getLsbD_extractLsb']
  by_cases h : i < 8
  · simp [h]
  · have : 8 + (i - 8) = i := by omega
    have h' : i - 8 < 8 := by omega
    simp [h, this, h']

theorem beword_trailer_zlibStream (z : BitVec 16) (p : Bytes) (v : Word) : beword ((zlibStream z p v).drop ((zlibStream z p v).length - 4)) = v := by
  have e : (zlibStream z p v).length - 4 = (zhdrBytes z ++ p).length := by rw [zlibStream_length]; simp; omega
  rw [e]; unfold zlibStream
  rw [List.drop_left]
  have := be32_beword v []
  simpa using this

theorem pass_ranges {s : State} (h1 : s.SrcInRange) (h2 : s.DstInRange) (h3 : s.Apart) :
    ∀ c ∈ [s.srcCheck, s.dstCheck, s.overlapCheck], c.fails = false := by
  simp only [List.forall_mem_cons, srcCheck_fails, dstCheck_fails, overlapCheck_fails]
  exact ⟨h1, h2, h3, by simp⟩

/-- A guarded command that ended without error passed its checks and did its body. -/
theorem guarded_ok {s t : State} {cs : List Check} {b : State} (h : guarded s cs b = .next t) (he : t.status.err = false) :
   (∀ c ∈ cs, c.fails = false) ∧ t = b := by
  rcases guarded_raise h with ⟨c, hc, hf, rfl⟩ | h
  · cases he
  · exact h

end Sys2Proof.Machine
end

