-- ==== Sys2Proof/Tests/Slice0.lean ====
section
/-! SUPPORT. The model's own tests. Expected values are the spec's: the worked examples and vectors of 95_test_vectors.md (V…, X…,
P…), the opcode map of 30_encoding.md R114 and the rules cited. The last part shows, for every statement that has hypotheses, a
concrete state and operands that meet them. -/

open Sys2Proof Sys2Proof.Machine

namespace Sys2Proof.Tests

-- one declaration after the other: each kernel evaluation would otherwise take a thread of its own
set_option Elab.async false

/-! ### Helpers -/

/-- The next state, or the reset state where there is none. -/
def after (o : Host.Outcome State Fault Refusal) : State :=
  match o with
  | .next t => t
  | .fault _ => State.reset
  | .refused _ => State.reset

def isNext (o : Host.Outcome State Fault Refusal) : Bool :=
  match o with
  | .next _ => true
  | .fault _ => false
  | .refused _ => false

theorem next_of {o : Host.Outcome State Fault Refusal} (h : isNext o = true) : o = .next (after o) := by
  cases o with
  | next t => rfl
  | fault f => simp [isNext] at h
  | refused r => simp [isNext] at h

/-- `WBS a, xs` (30_encoding.md R141) on the reset state. -/
def bytesAt (a : Nat) (xs : Bytes) : State := State.reset.memWrite a xs

/-- `OPS src, len; OPD dst, dcap`. -/
def ops (s : State) (src len dst dcap : Word) : State :=
  { s with opr := { s.opr with src := src, len := len, dst := dst, dcap := dcap } }

def withTag (s : State) (tag ceil : Word) : State := { s with opr := { s.opr with type := tag, ceil := ceil } }

/-- The command run as the model runs it: issued, then one step. -/
def ran (w : Word) (s : State) : State := after (step (s.issue w))

/-- STATUS as read after a command. -/
def statusOf (w : Word) (s : State) : Word := (ran w s).readReg .status

def digits : Bytes := [0x31, 0x32, 0x33, 0x34, 0x35, 0x36, 0x37, 0x38, 0x39]
def wikipedia : Bytes := [0x57, 0x69, 0x6B, 0x69, 0x70, 0x65, 0x64, 0x69, 0x61]
def abc : Bytes := [0x61, 0x62, 0x63]
/-- The payload and the stream `z` of 95_test_vectors.md section 2.2. -/
def deflated : Bytes := [0x4B, 0x4C, 0x4A, 0x06, 0x00]
def z : Bytes := [0x78, 0x9C, 0x4B, 0x4C, 0x4A, 0x06, 0x00, 0x02, 0x4D, 0x01, 0x27]
def endChunk : Bytes := [0, 0, 0, 0, 0x49, 0x45, 0x4E, 0x44, 0xAE, 0x42, 0x60, 0x82]
/-- The header chunk of V44. -/
def headerChunk : Bytes :=
  [0, 0, 0, 0x0D, 0x49, 0x48, 0x44, 0x52, 0, 0, 0, 1, 0, 0, 0, 1, 8, 2, 0, 0, 0, 0x90, 0x77, 0x53, 0xDE]
/-- The data chunk of V45. -/
def dataChunk : Bytes := [0, 0, 0, 0x0B, 0x49, 0x44, 0x41, 0x54] ++ z ++ [0x89, 0xD2, 0x34, 0xF3]
/-- The default SIG (00_scope.md R9). -/
def png : Bytes := [0x89, 0x50, 0x4E, 0x47, 0x0D, 0x0A, 0x1A, 0x0A]
/-- The container of program P2. -/
def container : Bytes := png ++ headerChunk ++ dataChunk ++ endChunk

/-- Other parameters: the least BUF, and a signature of another format. -/
def small : Params := { bufBytes := ⟨16, by decide⟩, sig := #v[1, 2, 3, 4, 5, 6, 7, 8] }

/-- A lawful transform, the identity: the one case in which a wrapper run can be written out in full. -/
def identity : Config.Transform := {}

/-! ### Well-formedness smoke: each condition of 30_encoding.md R115 -/

theorem test_wordWellFormed_unassigned :
    wordWellFormed 0x00000005 = false ∧ wordWellFormed 0x000000FF = false ∧ wordWellFormed 0x00000025 = false := by
  decide +kernel
theorem test_wordWellFormed_rsv : wordWellFormed 0x00010001 = false ∧ wordWellFormed 0x80000003 = false := by decide +kernel
theorem test_wordWellFormed_imm : wordWellFormed 0x00000122 = false ∧ wordWellFormed 0x0000FF00 = false := by decide +kernel
theorem test_wordWellFormed_good : wordWellFormed 0x0000FF03 = true ∧ wordWellFormed 0x00000024 = true := by decide +kernel

/-! ### Decoding, bit by bit from 30_encoding.md R110 and R114: RSV, IMM8, OPC -/

theorem test_decode_nop : decode (0b0000000000000000#16 ++ 0b00000000#8 ++ 0b00000000#8) = .cmd .nop := by decide +kernel
theorem test_decode_crcInit : decode (0b0000000000000000#16 ++ 0b00000000#8 ++ 0b00000001#8) = .cmd .crcInit := by decide +kernel
theorem test_decode_crcUpdate : decode (0b0000000000000000#16 ++ 0b00000000#8 ++ 0b00000010#8) = .cmd .crcUpdate := by
  decide +kernel
theorem test_decode_crcUpdateImm :
    decode (0b0000000000000000#16 ++ 0b01000001#8 ++ 0b00000011#8) = .cmd (.crcUpdateImm 0x41) := by decide +kernel
theorem test_decode_crc32 : decode (0b0000000000000000#16 ++ 0b00000000#8 ++ 0b00000100#8) = .cmd .crc32 := by decide +kernel
theorem test_decode_adlerInit : decode (0b0000000000000000#16 ++ 0b00000000#8 ++ 0b00001000#8) = .cmd .adlerInit := by
  decide +kernel
theorem test_decode_adlerUpdate : decode (0b0000000000000000#16 ++ 0b00000000#8 ++ 0b00001001#8) = .cmd .adlerUpdate := by
  decide +kernel
theorem test_decode_adlerUpdateImm :
    decode (0b0000000000000000#16 ++ 0b01100001#8 ++ 0b00001010#8) = .cmd (.adlerUpdateImm 0x61) := by decide +kernel
theorem test_decode_adler32 : decode (0b0000000000000000#16 ++ 0b00000000#8 ++ 0b00001011#8) = .cmd .adler32 := by decide +kernel
theorem test_decode_zwrap : decode (0b0000000000000000#16 ++ 0b00000000#8 ++ 0b00010000#8) = .cmd .zwrap := by decide +kernel
theorem test_decode_zunwrap : decode (0b0000000000000000#16 ++ 0b00000000#8 ++ 0b00010001#8) = .cmd .zunwrap := by decide +kernel
theorem test_decode_zframe : decode (0b0000000000000000#16 ++ 0b00000000#8 ++ 0b00010010#8) = .cmd .zframe := by decide +kernel
theorem test_decode_zstrip : decode (0b0000000000000000#16 ++ 0b00000000#8 ++ 0b00010011#8) = .cmd .zstrip := by decide +kernel
theorem test_decode_sigEmit : decode (0b0000000000000000#16 ++ 0b00000000#8 ++ 0b00100000#8) = .cmd .sigEmit := by decide +kernel
theorem test_decode_sigCheck : decode (0b0000000000000000#16 ++ 0b00000000#8 ++ 0b00100001#8) = .cmd .sigCheck := by decide +kernel
theorem test_decode_chunkEmit : decode (0b0000000000000000#16 ++ 0b00000000#8 ++ 0b00100010#8) = .cmd .chunkEmit := by
  decide +kernel
theorem test_decode_chunkParse : decode (0b0000000000000000#16 ++ 0b00000000#8 ++ 0b00100011#8) = .cmd .chunkParse := by
  decide +kernel
theorem test_decode_chunkSplit : decode (0b0000000000000000#16 ++ 0b00000000#8 ++ 0b00100100#8) = .cmd .chunkSplit := by
  decide +kernel

/-- The table's numbering of a word, and a word past 32 bits. -/
theorem test_decodeTableWord :
    decodeTableWord 32 0x00004103 = some (.crcUpdateImm 0x41) ∧ decodeTableWord 32 0x00000122 = none
    ∧ decodeTableWord 40 0x0100000001 = none := by decide +kernel

/-- withFetchWord from reset: the next step runs the word. -/
theorem test_withFetchWord :
    (after (step (State.reset.withFetchWord 32 0x0000FF03))).crcState = 0x00FFFFFF := by decide +kernel

/-! ### Checksums -/

/-- Rows of the table printed in 41_checksum.md R191, and its spot checks. -/
theorem test_crcTable :
    (List.range 8).map (fun n => crcTable (BitVec.ofNat 8 (0x08 + n)))
      = [0x0EDB8832, 0x79DCB8A4, 0xE0D5E91E, 0x97D2D988, 0x09B64C2B, 0x7EB17CBD, 0xE7B82D07, 0x90BF1D91]
    ∧ crcTable 0x01 = 0x77073096 ∧ crcTable 0x80 = 0xEDB88320 ∧ crcTable 0xFF = 0x2D02EF8D := by decide +kernel

/-- X1–X4 (IM3's own check values), V9. -/
theorem test_crc32_values : crc32 [] = 0 ∧ crc32 digits = 0xCBF43926 ∧ crc32 [0x49, 0x45, 0x4E, 0x44] = 0xAE426082 := by
  decide +kernel
theorem test_adler32_values : adler32 [] = 1 ∧ adler32 wikipedia = 0x11E60398 ∧ adler32 digits = 0x091E01DE := by decide +kernel

/-- V35. -/
theorem test_crcInit :
    (ran 0x00000001 { State.reset with crcState := 0x12345678 }).readReg .crcState = 0xFFFFFFFF
    ∧ (ran 0x00000001 { State.reset with crcState := 0x12345678 }).readReg .crcValue = 0 := by decide +kernel
/-- V21, V26. -/
theorem test_crcUpdate :
    (ran 0x00000002 { ops (bytesAt 0 digits) 0 9 0 0 with crcState := 0 }).crcState = 0x2DFD2D88 := by decide +kernel
theorem test_crcUpdate_range :
    (ran 0x00000002 { ops State.reset 0xFFFF 2 0 0 with crcState := 0x12345678 }).crcState = 0x12345678
    ∧ statusOf 0x00000002 { ops State.reset 0xFFFF 2 0 0 with crcState := 0x12345678 } = 0x00000204 := by decide +kernel
/-- V22, V25. -/
theorem test_crcUpdateImm :
    (ran 0x00000003 State.reset).crcState = 0x2DFD1072 ∧ (ran 0x00004103 State.reset).crcState = 0x2C266174 := by decide +kernel
/-- V27, V90. -/
theorem test_crc32 : (ran 0x00000004 (ops (bytesAt 0xFFFF [0xFF]) 0xFFFF 1 0 0)).readReg .crcValue = 0xFF000000 := by
  decide +kernel
theorem test_crc32_range : statusOf 0x00000004 (ops State.reset 0xFFFFFFFF 2 0 0) = 0x00000204 := by decide +kernel
/-- V34. -/
theorem test_adlerInit : (ran 0x00000008 { State.reset with adler := 0x11E60398 }).adler = 1 := by decide +kernel
/-- 41_checksum.md R202, its example, and R202's wrap of b. -/
theorem test_adlerUpdate : (ran 0x00000009 (ops (bytesAt 0 wikipedia) 0 9 0 0)).adler = 0x11E60398 := by decide +kernel
theorem test_adlerUpdate_wrap :
    (ran 0x00000009 { ops (bytesAt 0 [0]) 0 1 0 0 with adler := 0xFFF00001 }).adler = 0x00000001 := by decide +kernel
/-- V28, V29. -/
theorem test_adlerUpdateImm :
    (ran 0x0000000A { State.reset with adler := 0xFFFFFFFF }).adler = 0x001C000E
    ∧ (ran 0x0000FF0A { State.reset with adler := 0x0000FFF0 }).adler = 0x00FE00FE := by decide +kernel
/-- V10. -/
theorem test_adler32 :
    (ran 0x0000000B { ops (bytesAt 0 wikipedia) 0 9 0 0 with adler := 0x12345678 }).adler = 0x11E60398 := by decide +kernel
/-- V80. -/
theorem test_nop : statusOf 0x00000000 State.reset = 0x00000002 := by decide +kernel

/-! ### The zlib wrapper -/

/-- V20 and V38 with the identity for a transform: `d` is then "abc" itself; trailer and lengths are the spec's. -/
theorem test_zwrap :
    (after (execZwrapWith identity (ops (bytesAt 0 abc) 0 3 0x100 9))).memRead 0x100 9
      = [0x78, 0x9C, 0x61, 0x62, 0x63, 0x02, 0x4D, 0x01, 0x27] := by decide +kernel
/-- V37: one byte short. -/
theorem test_zwrap_overflow :
    (after (execZwrapWith identity (ops (bytesAt 0 abc) 0 3 0x100 8))).status.errcode = 0x05
    ∧ (after (execZwrapWith identity (ops (bytesAt 0 abc) 0 3 0x100 8))).res.outlen = 0 := by decide +kernel
theorem test_zunwrap :
    let t := after (execZunwrapWith identity
      (ops (bytesAt 0 [0x78, 0x9C, 0x61, 0x62, 0x63, 0x02, 0x4D, 0x01, 0x27]) 0 9 0x100 3))
    t.memRead 0x100 3 = abc ∧ t.res.next = 0x103 ∧ t.res.zhdrIn = 0x789C ∧ t.res.ztrailer = 0x024D0127
    ∧ t.res.zadlerCalc = 0x024D0127 ∧ t.statusWord = 0x00020002 := by decide +kernel
/-- V94: overlap before the length check. -/
theorem test_zunwrap_overlap : statusOf 0x00000011 (ops State.reset 0 5 4 100) = 0x00000404 := by decide +kernel
/-- V65, V71. -/
theorem test_zframe :
    (ran 0x00000012 { ops (bytesAt 0 deflated) 0 5 0x100 11 with adler := 0x024D0127 }).memRead 0x100 11 = z := by decide +kernel
theorem test_zframe_empty_destination : statusOf 0x00000012 (ops State.reset 0 5 2 0) = 0x00000504 := by decide +kernel
/-- V72, V75. -/
theorem test_zstrip :
    let t := ran 0x00000013 (ops (bytesAt 0 z) 0 11 0x100 5)
    t.memRead 0x100 5 = deflated ∧ t.res.outlen = 5 ∧ t.res.zhdrIn = 0x789C ∧ t.res.ztrailer = 0x024D0127 := by decide +kernel
theorem test_zstrip_short : statusOf 0x00000013 (ops State.reset 0 5 5 0) = 0x00002004 := by decide +kernel

/-! ### The framer -/

/-- V55, V56. -/
theorem test_sigEmit :
    let t := ran 0x00000020 (ops State.reset 0 0 0xFFF8 8)
    t.memRead 0xFFF8 8 = png ∧ t.res.next = 0x00010000 := by decide +kernel
theorem test_sigEmit_range : statusOf 0x00000020 (ops State.reset 0 0 0xFFF9 8) = 0x00000304 := by decide +kernel
/-- V53, V51. -/
theorem test_sigCheck :
    (ran 0x00000021 (ops (bytesAt 0 png) 0 8 0 0)).res.next = 8 := by decide +kernel
theorem test_sigCheck_differs :
    statusOf 0x00000021 (ops (bytesAt 0 [0x88, 0x50, 0x4E, 0x47, 0x0D, 0x0A, 0x1A, 0x0A]) 0 57 0 0) = 0x00001004 := by
  decide +kernel
/-- V44. -/
theorem test_chunkEmit :
    (ran 0x00000022 (withTag (ops (bytesAt 0 [0, 0, 0, 1, 0, 0, 0, 1, 8, 2, 0, 0, 0]) 0 13 0x100 25) 0x49484452 8192)).memRead
      0x100 25 = headerChunk := by decide +kernel
/-- V46. -/
theorem test_chunkEmit_overflow : statusOf 0x00000022 (withTag (ops State.reset 0 0 0 11) 0x49454E44 8192) = 0x00000504 := by
  decide +kernel
/-- V48. -/
theorem test_chunkParse :
    let t := ran 0x00000023 (ops (bytesAt 0 headerChunk) 0 25 0 0)
    t.res.chLen = 13 ∧ t.res.chType = 0x49484452 ∧ t.res.chCrc = 0x907753DE ∧ t.res.chCrcCalc = 0x907753DE ∧ t.res.chKind = 1
    ∧ t.res.outlen = 25 ∧ t.readReg .status = 0x00010002 := by decide +kernel
/-- V59: no wrap in the length check. -/
theorem test_chunkParse_no_wrap :
    statusOf 0x00000023 (ops (bytesAt 0 [0xFF, 0xFF, 0xFF, 0xFF, 0x49, 0x44, 0x41, 0x54, 0, 0, 0, 0]) 0 12 0 0) = 0x00002204 := by
  decide +kernel
/-- V40. -/
theorem test_chunkSplit :
    let t := ran 0x00000024 (withTag (ops (bytesAt 0 [0, 1, 2, 3, 4, 5, 6, 7, 8, 9]) 0 10 16 46) 0x49444154 4)
    t.memRead 16 46 =
      [0, 0, 0, 4, 0x49, 0x44, 0x41, 0x54, 0, 1, 2, 3, 0x40, 0xDE, 0xBE, 0x08,
       0, 0, 0, 4, 0x49, 0x44, 0x41, 0x54, 4, 5, 6, 7, 0xAB, 0xB4, 0x80, 0x9E,
       0, 0, 0, 2, 0x49, 0x44, 0x41, 0x54, 8, 9, 0xCD, 0xFE, 0x8F, 0x16]
    ∧ t.res.outlen = 46 ∧ t.res.next = 62 ∧ t.res.chunkCnt = 3 := by decide +kernel
/-- V93: the parameter before the overlap. -/
theorem test_chunkSplit_param : statusOf 0x00000024 (withTag (ops State.reset 0 10 5 100) 0 0) = 0x00000604 := by decide +kernel
/-- P2: the loop over the container gives the three chunks. -/
theorem test_readAll :
    readAll 3 (bytesAt 0 container) 0 68
      = some [⟨0x49484452, 16, 13, true⟩, ⟨0x49444154, 41, 11, true⟩, ⟨0x49454E44, 64, 0, true⟩] := by decide +kernel

/-! ### Status, bus and reset -/

/-- V82, V84. -/
theorem test_illegal :
    statusOf 0x00000005 State.reset = 0x00000104 ∧ statusOf 0x00010001 State.reset = 0x00000104 := by decide +kernel
/-- V87. -/
theorem test_statusWrite :
    ((ran 0x00000005 State.reset).writeReg .status 0x2).readReg .status = 0x00000104
    ∧ ((ran 0x00000005 State.reset).writeReg .status 0x4).readReg .status = 0x00000000 := by decide +kernel
/-- V81. -/
theorem test_irq :
    (ran 0 { State.reset with ie := true }).irq = true
    ∧ ((ran 0 { State.reset with ie := true }).writeReg .status 0x2).irq = false := by decide +kernel
/-- V96. -/
theorem test_softReset :
    let s : State := { ops (bytesAt 0 abc) 5 0 0 0 with ie := true, crcState := 0 }
    let t := s.writeReg .ctrl 0x3
    t.readReg .ctrl = 0 ∧ t.readReg .src = 0 ∧ t.readReg .crcState = 0xFFFFFFFF ∧ t.readReg .status = 0 ∧ t.memRead 0 3 = abc := by
  decide +kernel
/-- V97. -/
theorem test_lanes :
    let t := State.reset.perform ⟨0x10000, .word, .write 0x0D0C0B0A⟩
    t.memRead 0 4 = [0x0A, 0x0B, 0x0C, 0x0D] ∧ (t.perform ⟨0x10000, .word, .read⟩).rsp = some (.readOk 0x0D0C0B0A)
    ∧ (t.perform ⟨0x10002, .half, .read⟩).rsp = some (.readOk 0x0D0C) := by decide +kernel
/-- V98, V99. -/
theorem test_busErrors :
    (⟨0x008, .half, .read⟩ : HostAccess).target 65536 = .busError
    ∧ (⟨0x10001, .word, .write 0⟩ : HostAccess).target 65536 = .busError
    ∧ (⟨0x02C, .word, .read⟩ : HostAccess).target 65536 = .reserved := by decide +kernel
/-- A write of CMD that arrives while a command is pending is held, and issues after it (10_state.md R42). -/
theorem test_heldCmd :
    let s : State := { State.reset.issue 0x00000001 with arrivals := [⟨0, .access ⟨0x00C, .word, .write 0x0000FF03⟩⟩] }
    let t := after (step s)
    t.held = [⟨0x00C, .word, .write 0x0000FF03⟩] ∧ (after (step (after (step t)))).eng = .pending 0x0000FF03 := by decide +kernel
/-- Other parameters (00_scope.md R8, R9; 10_state.md R64, R65): BUFSIZE, SIG_HI, the range check and SIG_EMIT follow them. -/
theorem test_otherParameters :
    let s := State.resetWith small
    s.readReg .bufsize = 16 ∧ s.readReg .sigHi = 0x01020304 ∧ statusOf 0x00000002 (ops s 16 0 0 0) = 0x00000002
    ∧ statusOf 0x00000002 (ops s 16 1 0 0) = 0x00000204
    ∧ (ran 0x00000020 (ops s 0 0 8 8)).memRead 8 8 = [1, 2, 3, 4, 5, 6, 7, 8]
    ∧ (⟨0x10010, .byte, .read⟩ : HostAccess).target s.bufBytes = .busError := by decide +kernel
/-- A CMD write that reaches an IDLE block issues (10_state.md R42). -/
theorem test_cmdWrite :
    (State.reset.perform ⟨0x00C, .word, .write 0x00000001⟩).eng = .pending 0x00000001
    ∧ (State.reset.perform ⟨0x024, .word, .read⟩).rsp = some (.readOk 0x00002000) := by decide +kernel
/-- A byte written again leaves one entry, and equal memories are equal lists. -/
theorem test_memory_canonical :
    ((State.reset.memWrite 5 [1, 2]).memWrite 4 [3, 4]).buf = [(4, 3), (5, 4), (6, 2)]
    ∧ ((State.reset.memWrite 6 [2]).memWrite 4 [3, 4]).buf = [(4, 3), (5, 4), (6, 2)] := by decide +kernel

/-! ### Witnesses: the hypotheses of each statement can be met -/

theorem noneDue_of_nil {s : State} (h : s.arrivals = []) : s.NoneDue := by
  intro e es h'
  rw [h] at h'
  cases h'

/-- A legal state with a command pending and a byte of BUF written. -/
def legalState : State := (bytesAt 0xFFFF [7]).issue 0x00000020

theorem legalState_inv : legalState.Inv where
  bufLegal := by decide +kernel
  bufForm := by decide +kernel
  bufBound := by decide +kernel
  oneEnd := by decide +kernel
  code := by decide +kernel
  pendingClear := by decide +kernel
  heldHoldable := by decide +kernel
  drawUsed := by decide +kernel

theorem witness_DecodingFunction :
    (0x00010000 : Word).toNat / 65536 ≠ 0
    ∧ ((0x0000FF03 : Word).toNat / 65536 = 0 ∧ (0x0000FF03 : Word).toNat % 256 = 0x03)
    ∧ ((0x0000FF0A : Word).toNat / 65536 = 0 ∧ (0x0000FF0A : Word).toNat % 256 = 0x0A)
    ∧ ((0x00000024 : Word).toNat / 65536 = 0 ∧ (0x00000024 : Word).toNat / 256 % 256 = 0 ∧ (0x00000024 : Word).toNat % 256 = 0x24)
    ∧ ((0x00000124 : Word).toNat / 65536 = 0 ∧ (0x00000124 : Word).toNat % 256 ≠ 0x03
        ∧ (0x00000124 : Word).toNat % 256 ≠ 0x0A ∧ (0x00000124 : Word).toNat / 256 % 256 ≠ 0) := by decide +kernel

theorem witness_DecodeEncodeAgree :
    (Instr.crcUpdateImm 0xFF).wellFormed = true ∧ decode 0x0000FF03 = .cmd (.crcUpdateImm 0xFF) := by decide +kernel

theorem witness_OpcodeTableIsTheDecoder :
    (⟨"CRC_UPDATE_IMM", 0x03, 0xFFFF00FF⟩ : OpcodeRow) ∈ opcodeTable
    ∧ (⟨"CRC_UPDATE_IMM", 0x03, 0xFFFF00FF⟩ : OpcodeRow).covers 0x0000FF03 = true := by decide +kernel

theorem witness_IllegalWordEndsWithIllegal :
    (State.reset.issue 0x00000025).eng = .pending 0x00000025 ∧ (State.reset.issue 0x00000025).NoneDue
    ∧ (0x00000025 : Word).toNat % 256 ∉ [0x00, 0x01, 0x02, 0x03, 0x04, 0x08, 0x09, 0x0A, 0x0B, 0x10, 0x11, 0x12, 0x13, 0x20, 0x21,
        0x22, 0x23, 0x24]
    ∧ (0x00010003 : Word).toNat / 65536 ≠ 0
    ∧ ((0x00000100 : Word).toNat % 256 ≠ 0x03 ∧ (0x00000100 : Word).toNat % 256 ≠ 0x0A
        ∧ (0x00000100 : Word).toNat / 256 % 256 ≠ 0) :=
  ⟨rfl, noneDue_of_nil rfl, by decide +kernel⟩

theorem witness_StepRunsDecodedCommand :
    (State.reset.issue 0x00000024).eng = .pending 0x00000024 ∧ decode 0x00000024 = .cmd .chunkSplit
    ∧ (State.reset.issue 0x00000024).NoneDue := ⟨rfl, by decide +kernel, noneDue_of_nil rfl⟩

theorem witness_StepTakesDueEvents :
    ({ State.reset with arrivals := [⟨0, .powerOnReset⟩] } : State).arrivals = ⟨0, .powerOnReset⟩ :: []
    ∧ State.reset.eng = .idle ∧ State.reset.held = [] ∧ State.reset.arrivals = [] := ⟨rfl, rfl, rfl, rfl⟩

/-- A read of SRC that arrives while a command is pending; an access held at IDLE; a CMD write that arrives at an IDLE block. -/
theorem witness_HeldWhilePending :
    ((({ State.reset.issue 0 with arrivals := [⟨0, .access ⟨0x010, .word, .read⟩⟩] } : State).eng = .pending 0)
      ∧ (0x010 : BitVec 17) ≠ 0x000 ∧ (0x010 : BitVec 17) ≠ 0x004 ∧ (0x010 : BitVec 17) ≠ 0x008)
    ∧ (({ State.reset with held := [⟨0x010, .word, .read⟩] } : State).eng = .idle
      ∧ ({ State.reset with held := [⟨0x010, .word, .read⟩] } : State).NoneDue)
    ∧ (0x00000003 : Word).getLsbD 1 = true
    ∧ (State.reset.eng = .idle ∧ State.reset.held = []
      ∧ ({ State.reset with arrivals := [⟨0, .access ⟨0x00C, .word, .write 0⟩⟩] } : State).arrivals
        = ⟨0, .access ⟨0x00C, .word, .write 0⟩⟩ :: []) :=
  ⟨⟨rfl, by decide, by decide, by decide⟩, ⟨rfl, noneDue_of_nil rfl⟩, by decide, rfl, rfl, rfl⟩

theorem witness_NeverHeldOffsets :
    ({ State.reset.issue 0 with arrivals := [⟨0, .access ⟨0x008, .word, .read⟩⟩] } : State).arrivals
      = ⟨0, .access ⟨0x008, .word, .read⟩⟩ :: []
    ∧ ({ State.reset.issue 0 with arrivals := [⟨0, .access ⟨0x008, .word, .read⟩⟩] } : State).eng = .pending 0
    ∧ (⟨0x000, .word, .read⟩ : HostAccess).off = 0x000 ∧ (⟨0x004, .word, .write 1⟩ : HostAccess).off = 0x004 :=
  ⟨rfl, rfl, rfl, rfl⟩

theorem witness_PendingCommandEnds : (State.reset.issue 0x00000010).eng = .pending 0x00000010 := rfl

theorem witness_StepKeepsLegalStates : ∃ t, legalState.Inv ∧ step legalState = .next t :=
  ⟨_, legalState_inv, next_of (by decide +kernel)⟩

/-- One state for each of the four checks. -/
theorem witness_ChecksInOrder :
    (readsSource .crc32 = true ∧ ¬(ops State.reset 65537 0 0 0).SrcInRange)
    ∧ (writesDest .zwrap = true ∧ (ops State.reset 65536 0 65535 2).SrcInRange ∧ ¬(ops State.reset 65536 0 65535 2).DstInRange)
    ∧ ((withTag (ops State.reset 0 10 5 100) 0 0).SrcInRange ∧ (withTag (ops State.reset 0 10 5 100) 0 0).DstInRange
        ∧ (withTag (ops State.reset 0 10 5 100) 0 0).opr.ceil = 0)
    ∧ (readsSource .zframe = true ∧ writesDest .zframe = true ∧ (ops State.reset 0 5 4 11).SrcInRange
        ∧ (ops State.reset 0 5 4 11).DstInRange ∧ ¬(ops State.reset 0 5 4 11).Apart) := by decide +kernel

/-- SIG_EMIT without room: an error end (for the statements about every command's error end). -/
theorem witness_error_end :
    ∃ t, exec .sigEmit (ops State.reset 0 0 0 7) = .next t ∧ t.status.err = true :=
  ⟨after (exec .sigEmit (ops State.reset 0 0 0 7)), next_of (by decide +kernel), by decide +kernel⟩

/-- SIG_EMIT with room: a successful end of a command that writes a destination range. -/
theorem witness_success_end :
    ∃ t, exec .sigEmit (ops State.reset 0 0 0xFFF8 8) = .next t ∧ t.status.err = false ∧ writesDest .sigEmit = true :=
  ⟨after (exec .sigEmit (ops State.reset 0 0 0xFFF8 8)), next_of (by decide +kernel), by decide +kernel, rfl⟩

theorem witness_ErrorsPerCommand : ∃ i s t, exec i s = .next t ∧ t.status.err = true := ⟨_, _, witness_error_end⟩

theorem witness_CommitOfRegisters :
    (∃ i s t, exec i s = .next t ∧ Reg.outlen ≠ .status ∧ t.status.err = true)
    ∧ (∃ i s t, exec i s = .next t ∧ Reg.crcState ≠ .status ∧ t.status.err = false ∧ Reg.crcState ∉ resultRegs i) := by
  obtain ⟨t, h1, h2⟩ := witness_error_end
  obtain ⟨u, h3, h4, _⟩ := witness_success_end
  exact ⟨⟨_, _, t, h1, by decide, h2⟩, ⟨.sigEmit, _, u, h3, by decide, h4, by decide⟩⟩

theorem witness_WriteConfinement :
    (∃ i s t, exec i s = .next t ∧ t.status.err = false ∧ writesDest i = true)
    ∧ (∃ i s t, exec i s = .next t ∧ t.status.err = false ∧ writesDest i = false) :=
  ⟨⟨_, _, witness_success_end⟩, ⟨.nop, State.reset, _, next_of (by decide +kernel), by decide +kernel, rfl⟩⟩

theorem witness_ErrorsAndBuf : ∃ i s t, exec i s = .next t ∧ t.status.err = true := ⟨_, _, witness_error_end⟩

theorem witness_CommandsKeepOperands : ∃ i s t, exec i s = .next t := ⟨.nop, State.reset, _, next_of (by decide +kernel)⟩

theorem witness_WhoWritesTheOkBits :
    ∃ i s t, exec i s = .next t ∧ (i ≠ .chunkParse ∨ t.status.err = true) ∧ (i ≠ .zunwrap ∨ t.status.err = true) :=
  ⟨.nop, State.reset, _, next_of (by decide +kernel), by decide, by decide⟩

theorem witness_PrivateDatapaths :
    (∃ t, Instr.chunkParse ∈ [Instr.sigEmit, .sigCheck, .chunkEmit, .chunkParse, .chunkSplit]
        ∧ exec .chunkParse (ops (bytesAt 0 endChunk) 0 12 0 0) = .next t)
    ∧ (∃ t, Instr.zwrap ∈ [Instr.zwrap, .zunwrap] ∧ exec .zwrap (ops State.reset 0 3 3 11) = .next t) :=
  ⟨⟨_, by decide, next_of (by decide +kernel)⟩, ⟨_, by decide, rfl⟩⟩

/-- V88 and V89: the two sides of the source range's end. -/
theorem witness_CrcOverSource :
    (ops State.reset 65536 0 0 0).SrcInRange ∧ ¬(ops State.reset 65537 0 0 0).SrcInRange := by decide +kernel

theorem witness_AdlerOverSource :
    (ops State.reset 0 65536 0 0).SrcInRange ∧ ¬(ops State.reset 1 65536 0 0).SrcInRange := by decide +kernel

/-- Ranges that pass the three checks, adjoining each other; and one that fails each. -/
theorem witness_ranges :
    ((ops State.reset 0 0x8000 0x8000 0x8000).SrcInRange ∧ (ops State.reset 0 0x8000 0x8000 0x8000).DstInRange
      ∧ (ops State.reset 0 0x8000 0x8000 0x8000).Apart)
    ∧ ¬(ops State.reset 65537 0 0 0).SrcInRange
    ∧ ((ops State.reset 0 0 65536 1).SrcInRange ∧ ¬(ops State.reset 0 0 65536 1).DstInRange)
    ∧ ((ops State.reset 0 5 4 11).SrcInRange ∧ (ops State.reset 0 5 4 11).DstInRange ∧ ¬(ops State.reset 0 5 4 11).Apart) := by
  decide +kernel

theorem witness_ZwrapRule :
    (ops State.reset 0 0x8000 0x8000 0x8000).SrcInRange ∧ (ops State.reset 0 0x8000 0x8000 0x8000).DstInRange
    ∧ (ops State.reset 0 0x8000 0x8000 0x8000).Apart := by decide +kernel

/-- The identity as the transform; the destination exactly as long as the output. -/
theorem witness_ZwrapForEveryTransform :
    ∃ (T : Config.Transform) (s : State), s.SrcInRange ∧ s.DstInRange ∧ s.Apart
      ∧ ([s.opr.zhdrOut.extractLsb' 8 8, s.opr.zhdrOut.extractLsb' 0 8]
          ++ T.deflate (s.memRead s.opr.src.toNat s.opr.len.toNat)
          ++ be32 (adler32 (s.memRead s.opr.src.toNat s.opr.len.toNat))).length ≤ s.opr.dcap.toNat :=
  ⟨identity, ops (bytesAt 0 abc) 0 3 3 9, by decide +kernel⟩

theorem witness_ZunwrapRule :
    ((ops (bytesAt 0 z) 0 6 6 0).SrcInRange ∧ (ops (bytesAt 0 z) 0 6 6 0).DstInRange ∧ (ops (bytesAt 0 z) 0 6 6 0).Apart
      ∧ 6 ≤ (ops (bytesAt 0 z) 0 6 6 0).opr.len.toNat)
    ∧ ((ops State.reset 0 5 5 0).SrcInRange ∧ (ops State.reset 0 5 5 0).DstInRange ∧ (ops State.reset 0 5 5 0).Apart
      ∧ (ops State.reset 0 5 5 0).opr.len.toNat < 6) := by decide +kernel

theorem witness_ZunwrapForEveryTransform :
    ∃ (T : Config.Transform) (s : State) (r : Bytes), s.SrcInRange ∧ s.DstInRange ∧ s.Apart ∧ 6 ≤ s.opr.len.toNat
      ∧ T.inflate (s.memRead (s.opr.src.toNat + 2) (s.opr.len.toNat - 6)) = some r ∧ r.length ≤ s.opr.dcap.toNat :=
  ⟨identity, ops (bytesAt 0 z) 0 11 0x100 5, deflated, by decide +kernel⟩

/-- V70 and V68: adjoining ranges, room and one byte short. -/
theorem witness_ZframeRule :
    ((ops State.reset 0 5 5 11).SrcInRange ∧ (ops State.reset 0 5 5 11).DstInRange ∧ (ops State.reset 0 5 5 11).Apart
      ∧ (ops State.reset 0 5 5 11).opr.len.toNat + 6 ≤ (ops State.reset 0 5 5 11).opr.dcap.toNat)
    ∧ ((ops State.reset 0 5 5 10).SrcInRange ∧ (ops State.reset 0 5 5 10).DstInRange ∧ (ops State.reset 0 5 5 10).Apart
      ∧ (ops State.reset 0 5 5 10).opr.dcap.toNat < (ops State.reset 0 5 5 10).opr.len.toNat + 6) := by decide +kernel

/-- V74, V75 and V73: 6 bytes, 5 bytes, no room. -/
theorem witness_ZstripRule :
    ((ops State.reset 0 6 0x100 0).SrcInRange ∧ (ops State.reset 0 6 0x100 0).DstInRange ∧ (ops State.reset 0 6 0x100 0).Apart
      ∧ 6 ≤ (ops State.reset 0 6 0x100 0).opr.len.toNat
      ∧ (ops State.reset 0 6 0x100 0).opr.len.toNat - 6 ≤ (ops State.reset 0 6 0x100 0).opr.dcap.toNat)
    ∧ (ops State.reset 0 5 5 0).opr.len.toNat < 6
    ∧ ((ops State.reset 0 11 0x100 4).Apart ∧ 6 ≤ (ops State.reset 0 11 0x100 4).opr.len.toNat
      ∧ (ops State.reset 0 11 0x100 4).opr.dcap.toNat < (ops State.reset 0 11 0x100 4).opr.len.toNat - 6) := by decide +kernel

/-- V55, V56 and V54. -/
theorem witness_SigEmitRule :
    ((ops State.reset 0 0 0xFFF8 8).DstInRange ∧ 8 ≤ (ops State.reset 0 0 0xFFF8 8).opr.dcap.toNat)
    ∧ ¬(ops State.reset 0 0 0xFFF9 8).DstInRange
    ∧ ((ops State.reset 0 0 0 7).DstInRange ∧ (ops State.reset 0 0 0 7).opr.dcap.toNat < 8) := by decide +kernel

/-- V53, V52 and V51. -/
theorem witness_SigCheckRule :
    ((ops (bytesAt 0 png) 0 8 0 0).SrcInRange ∧ 8 ≤ (ops (bytesAt 0 png) 0 8 0 0).opr.len.toNat
      ∧ (ops (bytesAt 0 png) 0 8 0 0).memRead 0 8 = png)
    ∧ ¬(ops State.reset 65536 1 0 0).SrcInRange
    ∧ (ops (bytesAt 0 png) 0 7 0 0).opr.len.toNat < 8
    ∧ (ops (bytesAt 0 (0x88 :: png.tail)) 0 57 0 0).memRead 0 8 ≠ png := by decide +kernel

/-- An empty payload with just room for its chunk, and V46. -/
theorem witness_ChunkEmitRule :
    ((ops State.reset 0 0 0xFFF4 12).SrcInRange ∧ (ops State.reset 0 0 0xFFF4 12).DstInRange
      ∧ (ops State.reset 0 0 0xFFF4 12).Apart
      ∧ (ops State.reset 0 0 0xFFF4 12).opr.len.toNat + 12 ≤ (ops State.reset 0 0 0xFFF4 12).opr.dcap.toNat)
    ∧ ((ops State.reset 0 0 0 11).Apart
      ∧ (ops State.reset 0 0 0 11).opr.dcap.toNat < (ops State.reset 0 0 0 11).opr.len.toNat + 12) := by decide +kernel

/-- V47, V57 and V58. -/
theorem witness_ChunkParseRule :
    ((ops (bytesAt 0 endChunk) 0 12 0 0).SrcInRange ∧ 12 ≤ (ops (bytesAt 0 endChunk) 0 12 0 0).opr.len.toNat
      ∧ 0 = (beword ((ops (bytesAt 0 endChunk) 0 12 0 0).memRead 0 4)).toNat)
    ∧ (ops (bytesAt 0 endChunk) 0 11 0 0).opr.len.toNat < 12
    ∧ (12 ≤ (ops (bytesAt 0 headerChunk) 0 24 0 0).opr.len.toNat
      ∧ (ops (bytesAt 0 headerChunk) 0 24 0 0).opr.len.toNat
          < 12 + (beword ((ops (bytesAt 0 headerChunk) 0 24 0 0).memRead 0 4)).toNat)
    ∧ ((0x69646174 : Word) ≠ 0x49484452 ∧ (0x69646174 : Word) ≠ 0x49444154 ∧ (0x69646174 : Word) ≠ 0x49454E44) := by
  decide +kernel

/-- V40 with three parts, and V43. -/
theorem witness_ChunkSplitRule :
    (∃ (s : State) (n : Nat), s.SrcInRange ∧ s.DstInRange ∧ s.opr.ceil ≠ 0 ∧ s.Apart
      ∧ s.opr.len.toNat ≤ n * s.opr.ceil.toNat ∧ (∀ m, s.opr.len.toNat ≤ m * s.opr.ceil.toNat → n ≤ m)
      ∧ s.opr.len.toNat + 12 * n ≤ s.opr.dcap.toNat)
    ∧ (∃ (s : State) (n : Nat), s.SrcInRange ∧ s.DstInRange ∧ s.opr.ceil ≠ 0 ∧ s.Apart
      ∧ s.opr.len.toNat ≤ n * s.opr.ceil.toNat ∧ (∀ m, s.opr.len.toNat ≤ m * s.opr.ceil.toNat → n ≤ m)
      ∧ s.opr.dcap.toNat < s.opr.len.toNat + 12 * n)
    ∧ ((withTag (ops State.reset 0 10 16 46) 0 0).SrcInRange ∧ (withTag (ops State.reset 0 10 16 46) 0 0).DstInRange
      ∧ (withTag (ops State.reset 0 10 16 46) 0 0).opr.ceil = 0) := by
  refine ⟨⟨withTag (ops State.reset 0 10 16 46) 0 4, 3, by decide +kernel, by decide +kernel, by decide +kernel, by decide +kernel,
    by decide +kernel, fun m h => ?_, by decide +kernel⟩, ⟨withTag (ops State.reset 0 10 16 45) 0 4, 3, by decide +kernel,
    by decide +kernel, by decide +kernel, by decide +kernel, by decide +kernel, fun m h => ?_, by decide +kernel⟩, by decide +kernel⟩
  · have h' : 10 ≤ m * 4 := h
    omega
  · have h' : 10 ≤ m * 4 := h
    omega

/-- V19 with the two updates' ranges. -/
theorem witness_CrcComposition :
    ∃ t, 0 + 4 + 5 ≤ (bytesAt 0 digits).bufBytes ∧ exec .crcUpdate ((bytesAt 0 digits).withSource 0 4) = .next t :=
  ⟨_, by decide, next_of (by decide +kernel)⟩

theorem witness_AdlerComposition :
    ∃ t, 0 + 4 + 5 ≤ (bytesAt 0 wikipedia).bufBytes ∧ exec .adlerUpdate ((bytesAt 0 wikipedia).withSource 0 4) = .next t :=
  ⟨_, by decide, next_of (by decide +kernel)⟩

/-- "abc" wrapped by the identity at 0x100, and unwrapped from there. -/
def wrapped : State := after (execZwrapWith identity (ops (bytesAt 0 abc) 0 3 0x100 9))

theorem witness_WrapUnwrapRoundTrip :
    ∃ (T : Config.Transform) (s t u : State) (r : Bytes),
      r = s.memRead s.opr.src.toNat s.opr.len.toNat ∧ execZwrapWith T s = .next t ∧ t.status.err = false
      ∧ u.SrcInRange ∧ u.DstInRange ∧ u.Apart ∧ r.length ≤ u.opr.dcap.toNat
      ∧ u.memRead u.opr.src.toNat u.opr.len.toNat = t.memRead s.opr.dst.toNat t.res.outlen.toNat :=
  ⟨identity, ops (bytesAt 0 abc) 0 3 0x100 9, wrapped, ops wrapped 0x100 9 0x200 3, abc, by decide +kernel,
    next_of (by decide +kernel), by decide +kernel⟩

theorem witness_HalvesCompose :
    (∃ (T : Config.Transform) (s t u v : State),
      execZwrapWith T s = .next t ∧ t.status.err = false ∧ exec .zframe u = .next v ∧ v.status.err = false
      ∧ u.opr.zhdrOut = s.opr.zhdrOut
      ∧ u.memRead u.opr.src.toNat u.opr.len.toNat = T.deflate (s.memRead s.opr.src.toNat s.opr.len.toNat)
      ∧ u.adler = adler32 (s.memRead s.opr.src.toNat s.opr.len.toNat))
    ∧ (∃ (T : Config.Transform) (s t u v : State),
      execZunwrapWith T s = .next t ∧ t.status.err = false ∧ exec .zstrip u = .next v ∧ v.status.err = false
      ∧ u.memRead u.opr.src.toNat u.opr.len.toNat = s.memRead s.opr.src.toNat s.opr.len.toNat) := by
  refine ⟨⟨identity, ops (bytesAt 0 abc) 0 3 0x100 9, wrapped, { ops wrapped 0 3 0x200 9 with adler := 0x024D0127 },
    after (exec .zframe { ops wrapped 0 3 0x200 9 with adler := 0x024D0127 }), next_of (by decide +kernel), by decide +kernel,
    next_of (by decide +kernel), by decide +kernel, by decide +kernel, by decide +kernel, by decide +kernel⟩,
    ⟨identity, ops wrapped 0x100 9 0x200 3, after (execZunwrapWith identity (ops wrapped 0x100 9 0x200 3)),
    ops wrapped 0x100 9 0x300 3, after (exec .zstrip (ops wrapped 0x100 9 0x300 3)), next_of (by decide +kernel),
    by decide +kernel, next_of (by decide +kernel), by decide +kernel, by decide +kernel⟩⟩

/-- Program P1's emit and parse. -/
def emittedEnd : State := after (exec .chunkEmit (withTag (ops State.reset 0 0 0x100 12) 0x49454E44 8192))

theorem witness_EmitParseRoundTrip :
    ∃ (s t u : State) (p : Bytes), p = s.memRead s.opr.src.toNat s.opr.len.toNat ∧ exec .chunkEmit s = .next t
      ∧ t.status.err = false ∧ u.SrcInRange
      ∧ u.memRead u.opr.src.toNat u.opr.len.toNat = t.memRead s.opr.dst.toNat t.res.outlen.toNat :=
  ⟨withTag (ops State.reset 0 0 0x100 12) 0x49454E44 8192, emittedEnd, ops emittedEnd 0x100 12 0 0, [], by decide +kernel,
    next_of (by decide +kernel), by decide +kernel⟩

theorem witness_SplitParsesBack :
    ∃ t, exec .chunkSplit (withTag (ops (bytesAt 0 [0, 1, 2, 3, 4, 5, 6, 7, 8, 9]) 0 10 16 46) 0x49444154 4) = .next t
      ∧ t.status.err = false ∧ t.res.chunkCnt = 3 :=
  ⟨after (exec .chunkSplit (withTag (ops (bytesAt 0 [0, 1, 2, 3, 4, 5, 6, 7, 8, 9]) 0 10 16 46) 0x49444154 4)),
    next_of (by decide +kernel), by decide +kernel⟩

/-- Program P2's container. -/
theorem witness_ReadAllOfAContainer :
    ∃ (s : State) (chunks : List (Word × Bytes)), 0 + 68 ≤ s.bufBytes ∧ chunks.length = 3
      ∧ s.memRead 0 68 = s.sig ++ chunks.flatMap (fun c =>
        be32 (BitVec.ofNat 32 c.2.length) ++ be32 c.1 ++ c.2 ++ be32 (crc32 (be32 c.1 ++ c.2))) :=
  ⟨bytesAt 0 container, [(0x49484452, [0, 0, 0, 1, 0, 0, 0, 1, 8, 2, 0, 0, 0]), (0x49444154, z), (0x49454E44, [])],
    by decide +kernel⟩

/-- The last register's row; the first and the last reserved offsets, and the single ones. -/
theorem witness_RegisterMap :
    (0x078, Reg.bufsize) ∈ regMap
    ∧ ∀ off ∈ [0x02C, 0x03C, 0x06C, 0x07C, 0xFFFC],
      off < 0x10000 ∧ off % 4 = 0 ∧ (off = 0x02C ∨ off = 0x03C ∨ off = 0x06C ∨ 0x07C ≤ off) := by decide +kernel

theorem witness_WritableRegisters :
    Reg.crcState ∈ [Reg.src, .len, .dst, .dcap, .type, .ceil, .zhdrOut, .crcState, .adler]
    ∧ Reg.adler ≠ Reg.crcState ∧ ¬(Reg.crcState = .crcState ∧ Reg.adler = .crcValue) := by decide +kernel

theorem witness_ReadOnlyRegisters :
    Reg.bufsize ∈ [Reg.id, .crcValue, .outlen, .next, .chLen, .chType, .chCrc, .chCrcCalc, .chKind, .chunkCnt, .zhdrIn, .ztrailer,
      .zadlerCalc, .sigHi, .sigLo, .bufsize] := by decide +kernel

theorem witness_CtrlWrite : (0xFFFFFFFD : Word).getLsbD 1 = false ∧ (0x00000002 : Word).getLsbD 1 = true := by decide +kernel

theorem witness_PowerOnReset :
    (State.resetWith small = State.resetWith small ∧ State.reset.powerOn = State.reset.powerOn)
    ∧ ({ State.reset with arrivals := [⟨0, .powerOnReset⟩] } : State).arrivals = ⟨0, .powerOnReset⟩ :: []
    ∧ Reg.status ∈ [Reg.ctrl, .status, .cmd, .src, .len, .dst, .dcap, .type, .outlen, .next, .chLen, .chType, .chCrc, .chCrcCalc,
        .chKind, .chunkCnt, .zhdrIn, .ztrailer, .zadlerCalc] := ⟨⟨rfl, rfl⟩, rfl, by decide +kernel⟩

/-- An IDLE state; a pending NOP; a destination range past the end of BUF, with a byte outside it; an access held. -/
theorem witness_SoftResetRule :
    State.reset.eng = .idle
    ∧ ((State.reset.issue 0).eng = .pending 0 ∧ ∀ i, decode 0 = .cmd i → writesDest i = false)
    ∧ min ((ops State.reset 0 0 0xFFFF 2).opr.dst.toNat + (ops State.reset 0 0 0xFFFF 2).opr.dcap.toNat) State.reset.bufBytes ≤ 65536
    ∧ (({ State.reset.issue 0x00000020 with held := [⟨0x010, .word, .read⟩] } : State).held = [⟨0x010, .word, .read⟩]
      ∧ ({ State.reset.issue 0x00000020 with held := [⟨0x010, .word, .read⟩] } : State).NoneDue) := by
  refine ⟨rfl, ⟨rfl, fun i h => ?_⟩, by decide +kernel, rfl, noneDue_of_nil rfl⟩
  have h' : Decoded.cmd .nop = .cmd i := h
  cases h'
  rfl

theorem witness_InterruptOutput :
    ({ State.reset with ie := true, status := { Status.reset with done := true } } : State).irq = true
    ∧ ∃ t, exec .nop State.reset = .next t := ⟨rfl, _, next_of (by decide +kernel)⟩

/-- A narrow and a misaligned register access, a misaligned window access, and one past the end of BUF; with 16 bytes of BUF, an
aligned access at the first unmapped offset (20_memory.md R84). -/
theorem witness_BusErrors :
    ((0x008 : BitVec 17).toNat < 0x10000 ∧ AccessSize.half ≠ .word)
    ∧ ((0x0FFFE : BitVec 17).toNat < 0x10000 ∧ (0x0FFFE : BitVec 17).toNat % 4 ≠ 0)
    ∧ (0x10000 ≤ (0x10001 : BitVec 17).toNat ∧ (0x10001 : BitVec 17).toNat % AccessSize.half.bytes ≠ 0)
    ∧ (0x10000 ≤ (0x1FFFF : BitVec 17).toNat
      ∧ 0x10000 + State.reset.bufBytes < (0x1FFFF : BitVec 17).toNat + AccessSize.word.bytes)
    ∧ (0x10000 ≤ (0x10010 : BitVec 17).toNat
      ∧ 0x10000 + (State.resetWith small).bufBytes < (0x10010 : BitVec 17).toNat + AccessSize.byte.bytes) := by decide +kernel

/-- The first word and the last byte of the window; the last half-word of a BUF of 16 bytes. -/
theorem witness_WindowLanes :
    ((0x10000 : BitVec 17).toNat = 0x10000 + 0 ∧ 0 % AccessSize.word.bytes = 0
      ∧ 0 + AccessSize.word.bytes ≤ State.reset.bufBytes)
    ∧ ((0x1FFFF : BitVec 17).toNat = 0x10000 + 65535 ∧ 65535 % AccessSize.byte.bytes = 0
      ∧ 65535 + AccessSize.byte.bytes ≤ State.reset.bufBytes)
    ∧ ((0x1000E : BitVec 17).toNat = 0x10000 + 14 ∧ 14 % AccessSize.half.bytes = 0
      ∧ 14 + AccessSize.half.bytes ≤ (State.resetWith small).bufBytes) := by decide +kernel

theorem witness_ReadsHaveNoSideEffect : (⟨0x008, .word, .read⟩ : HostAccess).op = .read := rfl

/-- A block of other parameters, IDLE: the step is a wait. -/
theorem witness_ParametersNeverChange :
    ∃ t, step (State.resetWith small) = .next t ∧ t.bufBytes = 16 := ⟨State.resetWith small, rfl, rfl⟩

end Sys2Proof.Tests
end

section
/-! SUPPORT and SETTLED STATEMENTS of 00_scope.md: what one step can do, the parameters after a step, the legal states after
each operation, and the two invariants of the step. -/

namespace Sys2Proof.Machine

/-! ### What one step can do -/

/-- The command step runs the decoded command, or raises E_ILLEGAL (30_encoding.md R115, 40_command_execution.md R162). -/
theorem State.commandStep_cases {s t : State} {w : Word} (h : s.commandStep w = .next t) :
    (∃ i, decode w = .cmd i ∧ exec i s = .next t) ∨ (∃ why, decode w = .illegal why ∧ t = s.raise .illegal) := by
  unfold State.commandStep at h
  cases hd : decode w with
  | cmd i => rw [hd] at h; exact .inl ⟨i, rfl, h⟩
  | illegal why =>
    rw [hd] at h
    cases h
    exact .inr ⟨why, rfl, rfl⟩

/-- The block's own move: the command step, a wait, or the first held access (20_memory.md R87, 70_reset_and_hazards.md R344). -/
theorem State.blockMove_cases {s t : State} (h : s.blockMove = .next t) :
    (∃ w, s.eng = .pending w ∧ s.commandStep w = .next t)
    ∨ (s.eng = .idle ∧ s.held = [] ∧ t = s)
    ∨ (∃ a as, s.eng = .idle ∧ s.held = a :: as ∧ t = State.perform { s with held := as } a) := by
  unfold State.blockMove at h
  cases he : s.eng with
  | pending w => rw [he] at h; exact .inl ⟨w, rfl, h⟩
  | idle =>
    cases hh : s.held with
    | nil =>
      rw [he, hh] at h
      cases h
      exact .inr (.inl ⟨rfl, rfl, rfl⟩)
    | cons a as =>
      rw [he, hh] at h
      cases h
      exact .inr (.inr ⟨a, as, rfl, rfl, rfl⟩)

/-- A step: the first arrival, when it is due, reaches the block; else the block moves (20_memory.md R96). -/
theorem step_cases {s t : State} (h : step s = .next t) :
    (∃ e es, s.arrivals = e :: es ∧ e.delay = 0 ∧ t = State.arrive { s with arrivals := es } e.event)
    ∨ (s.NoneDue ∧ s.ticked.blockMove = .next t) := by
  by_cases hn : s.NoneDue
  · exact .inr ⟨hn, by rw [← step_noneDue s hn]; exact h⟩
  · obtain ⟨e, es, ha, hd⟩ : ∃ e es, s.arrivals = e :: es ∧ e.delay = 0 := by
      simpa [State.NoneDue] using hn
    have hs : step s = .next (State.arrive { s with arrivals := es } e.event) := by
      simp only [step, State.advance, ha, hd]
    rw [hs] at h
    cases h
    exact .inl ⟨e, es, ha, hd, rfl⟩

/-! ### The parameters (00_scope.md R8, R9) -/

theorem State.ticked_par (s : State) : s.ticked.par = s.par := by
  obtain ⟨-, -, -, -, h⟩ := s.ticked_fields
  rw [h]

theorem exec_par {i : Instr} {s t : State} (h : exec i s = .next t) : t.par = s.par := by
  obtain ⟨e, -, rfl⟩ | ⟨e, -, -, rfl⟩ | ⟨u, hu, rfl⟩ := exec_cases h
  · exact s.raise_par e
  · exact s.midError_par e
  · exact u.finish_par.trans hu.par

theorem State.commandStep_par {s t : State} {w : Word} (h : s.commandStep w = .next t) : t.par = s.par := by
  obtain ⟨i, -, he⟩ | ⟨why, -, rfl⟩ := State.commandStep_cases h
  · exact exec_par he
  · exact s.raise_par .illegal

theorem State.blockMove_par {s t : State} (h : s.blockMove = .next t) : t.par = s.par := by
  obtain ⟨w, -, hc⟩ | ⟨-, -, rfl⟩ | ⟨a, as, -, -, rfl⟩ := State.blockMove_cases h
  · exact State.commandStep_par hc
  · rfl
  · exact State.perform_par _ a

theorem State.arrive_par (s : State) (e : Event) : (s.arrive e).par = s.par := by
  cases e with
  | powerOnReset => exact s.powerOn_par
  | access a =>
    unfold State.arrive
    dsimp only
    split
    · rfl
    · exact s.perform_par a

/-- Settles O60: an arrival and each move of the block keep the parameters. -/
theorem parametersNeverChange : Obligations.ParametersNeverChange := by
  intro s t h
  obtain ⟨e, es, -, -, rfl⟩ | ⟨-, hm⟩ := step_cases h
  · exact State.arrive_par _ e.event
  · exact (State.blockMove_par hm).trans s.ticked_par

/-! ### The legal states: one rule per operation -/

/-- What the legal states say nothing of may change freely. -/
theorem State.Inv.frame {s t : State} (h : s.Inv)
    (ht : t = { s with
      ie := t.ie, opr := t.opr, crcState := t.crcState, adler := t.adler, res := t.res
      arrivals := t.arrivals, rsp := t.rsp
      status := { s.status with crcOk := t.status.crcOk, ztrlOk := t.status.ztrlOk } }) : t.Inv := by
  rw [ht]
  exact { h with }

theorem State.Inv.ticked {s : State} (h : s.Inv) : s.ticked.Inv := by
  obtain ⟨-, -, -, -, ht⟩ := s.ticked_fields
  rw [ht]
  exact h.frame rfl

/-- A store inside BUF keeps a legal state legal. -/
theorem State.Inv.memWrite {s : State} (h : s.Inv) {a : Nat} {xs : Bytes}
    (hr : ∀ c, a ≤ c → c < a + xs.length → c < s.bufBytes) : (s.memWrite a xs).Inv :=
  { h with
    bufForm := Memory.store_wf h.bufForm a xs
    bufBound := fun c hc => by
      obtain hm | ⟨hl, hu⟩ := Memory.mem_store hc
      · exact h.bufBound c hm
      · exact hr c.1 hl hu }

/-- A draw used up, with no change to BUF. -/
theorem State.Inv.drawMore {s : State} (h : s.Inv) : State.Inv { s with draws := s.draws + 1 } :=
  { h with drawUsed := Nat.lt_succ_of_lt h.drawUsed }

theorem State.Inv.undefinedBytes {s : State} (h : s.Inv) {a n : Nat}
    (hr : ∀ c, a ≤ c → c < a + n → c < s.bufBytes) : (s.undefinedBytes a n).Inv := by
  have hw : (s.memWrite a ((List.range' a n).map (Config.bufDraw s.draws))).Inv := h.memWrite (by simpa using hr)
  exact hw.drawMore

theorem State.Inv.finish {s : State} (h : s.Inv) : s.finish.Inv :=
  { h with
    oneEnd := by simp
    code := by simp
    pendingClear := by simp [State.busy] }

theorem CmdError.code_mem_errorCodes (e : CmdError) : e.code ∈ errorCodes := by
  cases e <;> decide

theorem State.Inv.raise {s : State} (h : s.Inv) (e : CmdError) : (s.raise e).Inv :=
  { h with
    oneEnd := by simp
    code := by simpa using e.code_mem_errorCodes
    pendingClear := by simp [State.busy] }

theorem State.Inv.midError {s : State} (h : s.Inv) (hd : s.DstInRange) (e : CmdError) : (s.midError e).Inv := by
  have hu : (s.undefinedBytes s.opr.dst.toNat s.opr.dcap.toNat).Inv := h.undefinedBytes fun c _ hc => by omega
  exact hu.raise e

theorem State.Inv.issue {s : State} (h : s.Inv) (w : Word) : (s.issue w).Inv :=
  { h with
    oneEnd := by simp
    code := by simp
    pendingClear := by simp }

/-- A write to STATUS clears flags only, and ERRCODE exactly when it clears ERR (10_state.md R36–R38). -/
theorem State.Inv.acknowledge {s : State} (h : s.Inv) (v : Word) : (s.acknowledge v).Inv :=
  { h with
    oneEnd := fun ⟨hd, he⟩ => h.oneEnd ⟨(Bool.and_eq_true_iff.1 hd).1, (Bool.and_eq_true_iff.1 he).1⟩
    code := by
      cases hv : v.getLsbD 2 with
      | true => simp [State.acknowledge, hv]
      | false => simpa only [State.acknowledge, hv, Bool.not_false, Bool.and_true, Bool.false_eq_true, if_false] using h.code
    pendingClear := fun hb => by
      obtain ⟨hd, he⟩ := h.pendingClear hb
      simp [State.acknowledge, hd, he] }

theorem State.Inv.resetRegs {s : State} (h : s.Inv) : s.resetRegs.Inv :=
  { h with
    oneEnd := by simp [Status.reset]
    code := by simp [Status.reset]
    pendingClear := by simp [State.busy] }

theorem State.Inv.powerOn {s : State} (h : s.Inv) : s.powerOn.Inv :=
  { h.resetRegs with
    bufForm := List.Pairwise.nil
    bufBound := by simp
    drawUsed := Nat.lt_succ_self s.draws }

/-! ### The legal states: commands -/

/-- A successful end after changes that `Committed` allows: BUF as before, or one store in the destination range. -/
theorem State.Inv.committed {i : Instr} {s u : State} (h : s.Inv) (hu : Committed i s u) : u.finish.Inv := by
  have hb : State.Inv { s with buf := u.buf } := by
    have hbuf := hu.buf
    split at hbuf
    · obtain ⟨out, hl, hd, hs, -⟩ := hbuf
      rw [hs]
      exact h.memWrite fun c _ hc => by omega
    · rw [hbuf]
      exact h
  refine hb.finish.frame ?_
  simp [State.finish, hu.par, hu.held, hu.bufEpoch, hu.draws]

theorem State.Inv.exec {i : Instr} {s t : State} (h : s.Inv) (hx : exec i s = .next t) : t.Inv := by
  obtain ⟨e, -, rfl⟩ | ⟨e, -, hd, rfl⟩ | ⟨u, hu, rfl⟩ := exec_cases hx
  · exact h.raise e
  · exact h.midError hd e
  · exact h.committed hu

theorem State.Inv.commandStep {s t : State} {w : Word} (h : s.Inv) (hc : s.commandStep w = .next t) : t.Inv := by
  obtain ⟨i, -, hx⟩ | ⟨why, -, rfl⟩ := State.commandStep_cases hc
  · exact h.exec hx
  · exact h.raise .illegal

/-! ### The legal states: host accesses and arrivals -/

theorem State.Inv.dropPending {s : State} (h : s.Inv) : s.dropPending.Inv := by
  obtain hd | ⟨w, i, -, -, -, hd⟩ := s.dropPending_cases
  · rw [hd]; exact h
  · rw [hd]; exact h.undefinedBytes fun c _ _ => by omega

theorem State.Inv.writeCtrl {s : State} (h : s.Inv) (v : Word) : (s.writeCtrl v).Inv := by
  unfold State.writeCtrl
  split
  · exact h.dropPending.resetRegs
  · exact h.frame rfl

/-- Only writes to CTRL, STATUS and CMD reach what the legal states speak of. -/
theorem State.Inv.writeReg {s : State} (h : s.Inv) (r : Reg) (v : Word) : (s.writeReg r v).Inv := by
  cases r
  case ctrl => exact h.writeCtrl v
  case status => exact h.acknowledge v
  case cmd => exact h.issue v
  all_goals exact h.frame rfl

/-- A window access lies inside BUF (20_memory.md R82, R84). -/
theorem HostAccess.inBounds_of_target_buffer {a : HostAccess} {n b : Nat} (h : a.target n = .buffer b) :
    b + a.size.bytes ≤ n := by
  unfold HostAccess.target at h
  dsimp only at h
  split at h
  · split at h
    · split at h <;> cases h
    · cases h
  · split at h
    next hr => rw [← Target.buffer.inj h]; exact hr.2
    · cases h

theorem State.Inv.performRead {s : State} (h : s.Inv) (t : Target) (n : Nat) : (s.performRead t n).Inv := by
  cases t with
  | register r => exact h.frame rfl
  | reserved => exact h.frame rfl
  | buffer a => exact h.frame rfl
  | busError => exact h.drawMore.frame rfl

theorem State.Inv.performWrite {s : State} (h : s.Inv) {t : Target} {n : Nat} (v : Word)
    (ht : ∀ b, t = .buffer b → b + n ≤ s.bufBytes) : (s.performWrite t n v).Inv := by
  cases t with
  | register r => exact (h.writeReg r v).frame rfl
  | reserved => exact h.frame rfl
  | buffer b =>
    have hb := ht b rfl
    have hw : (s.memWrite b (leBytes n v)).Inv := h.memWrite fun c _ hc => by rw [leBytes_length] at hc; omega
    exact hw.frame rfl
  | busError => exact h.frame rfl

theorem State.Inv.perform {s : State} (h : s.Inv) (a : HostAccess) : (s.perform a).Inv := by
  unfold State.perform
  split
  · exact h.performRead _ _
  · exact h.performWrite _ fun b hb => HostAccess.inBounds_of_target_buffer hb

theorem State.Inv.arrive {s : State} (h : s.Inv) (e : Event) : (s.arrive e).Inv := by
  cases e with
  | powerOnReset => exact h.powerOn
  | access a =>
    unfold State.arrive
    dsimp only
    split
    next hw =>
      obtain ⟨ha, -⟩ := Bool.and_eq_true_iff.1 hw
      exact { h with heldHoldable := List.forall_mem_append.2 ⟨h.heldHoldable, by simpa using ha⟩ }
    · exact h.perform a

theorem State.Inv.blockMove {s t : State} (h : s.Inv) (hm : s.blockMove = .next t) : t.Inv := by
  obtain ⟨w, -, hc⟩ | ⟨-, -, rfl⟩ | ⟨a, as, -, hh, rfl⟩ := State.blockMove_cases hm
  · exact h.commandStep hc
  · exact h
  · have hs : State.Inv { s with held := as } :=
      { h with heldHoldable := fun b hb => h.heldHoldable b (by rw [hh]; exact List.mem_cons_of_mem a hb) }
    exact hs.perform a

/-- Settles O12: an arrival and each move of the block keep the legal states. -/
theorem stepKeepsLegalStates : Obligations.StepKeepsLegalStates := by
  intro s t h hst
  obtain ⟨e, es, -, -, rfl⟩ | ⟨-, hm⟩ := step_cases hst
  · have hs : State.Inv { s with arrivals := es } := h.frame rfl
    exact hs.arrive e.event
  · exact h.ticked.blockMove hm

end Sys2Proof.Machine
end

section
/-! SUPPORT and SETTLED STATEMENTS of 10_state.md: who writes CRC_OK and ZTRL_OK, the register map, what a register reads after
a write, STATUS and CTRL, and power-on reset. -/

namespace Sys2Proof.Machine

/-! ### The two OK bits -/

/-- Settles O22: an error end keeps both bits, and a success keeps those that are not its own. -/
theorem whoWritesTheOkBits : Obligations.WhoWritesTheOkBits := by
  intro i s t h
  obtain ⟨e, -, rfl⟩ | ⟨e, -, -, rfl⟩ | ⟨u, hu, rfl⟩ := exec_cases h
  · exact ⟨fun _ => rfl, fun _ => rfl⟩
  · exact ⟨fun _ => rfl, fun _ => rfl⟩
  · have hok : u.finish.status.err ≠ true := Bool.false_ne_true
    exact ⟨fun hi => hu.crcOk (hi.resolve_right hok), fun hi => hu.ztrlOk (hi.resolve_right hok)⟩

/-! ### The register map (10_state.md R30, R66) -/

/-- An aligned word access at an offset without a register reaches nothing (10_state.md R66). -/
theorem HostAccess.target_reserved (a : HostAccess) (n : Nat) (hs : a.size = .word)
    (h1 : a.off.toNat < 0x10000) (h4 : a.off.toNat % 4 = 0) (hr : regAt a.off.toNat = none) : a.target n = .reserved := by
  have hw : a.off.toNat < windowBase := h1
  simp only [HostAccess.target, hw, if_true, hs, AccessSize.bytes, h4, and_self, hr]

theorem State.perform_read (s : State) {a : HostAccess} {t : Target} (ho : a.op = .read) (ht : a.target s.bufBytes = t) :
    s.perform a = s.performRead t a.size.bytes := by
  simp only [State.perform, ho, ht]

theorem State.perform_write (s : State) {a : HostAccess} {t : Target} {v : Word} (ho : a.op = .write v)
    (ht : a.target s.bufBytes = t) : s.perform a = s.performWrite t a.size.bytes v := by
  simp only [State.perform, ho, ht]

/-- Settles O49: an aligned word access reaches the register `regMap` names, or a reserved word. -/
theorem registerMap : Obligations.RegisterMap := by
  refine ⟨fun p hp s v => ?_, fun s off v h1 h4 ho => ?_⟩
  · obtain ⟨h1, h4, hr⟩ := regMap_offsets p hp
    have ht (op : HostOp) : HostAccess.target ⟨BitVec.ofNat 17 p.1, .word, op⟩ s.bufBytes = .register p.2 :=
      HostAccess.target_register _ _ rfl h1 h4 hr
    exact ⟨s.perform_read rfl (ht _), s.perform_write rfl (ht _)⟩
  · have ht (op : HostOp) : HostAccess.target ⟨off, .word, op⟩ s.bufBytes = .reserved :=
      HostAccess.target_reserved _ _ rfl h1 h4 (regAt_reserved h4 ho)
    exact ⟨s.perform_read rfl (ht _), s.perform_write rfl (ht _)⟩

/-! ### Reading a register after a write -/

/-- What each register reads after a write to one the host may write freely: that register the data (of ZHDR_OUT the low 16
bits, 10_state.md R49), CRC_VALUE the complement of a CRC_STATE written (R51), every other as before. -/
theorem State.readReg_writeReg (s : State) (v : Word) {r : Reg} (q : Reg)
    (hr : r ∈ [Reg.src, .len, .dst, .dcap, .type, .ceil, .zhdrOut, .crcState, .adler]) :
    (s.writeReg r v).readReg q =
      if q = r then (if r = .zhdrOut then (v.setWidth 16).setWidth 32 else v)
      else if r = .crcState ∧ q = .crcValue then crcFinal v
      else s.readReg q := by
  simp only [List.mem_cons, List.not_mem_nil, or_false] at hr
  obtain rfl | rfl | rfl | rfl | rfl | rfl | rfl | rfl | rfl := hr <;> cases q <;> rfl

theorem setWidth_low16 (v : Word) : (v.setWidth 16).setWidth 32 = BitVec.ofNat 32 (v.toNat % 65536) := by
  apply BitVec.eq_of_toNat_eq
  simp

/-- Settles O50, by what each register reads after the write. -/
theorem writableRegisters : Obligations.WritableRegisters := by
  intro s v r q hr
  refine ⟨?_, fun hq hc => ?_, rfl⟩
  · rw [s.readReg_writeReg v r hr, if_pos rfl, setWidth_low16]
  · rw [s.readReg_writeReg v q hr, if_neg hq, if_neg hc]

/-- A read-only register ignores a write (10_state.md R31, R51, R53–R65). -/
theorem State.writeReg_readOnly (s : State) (v : Word) {r : Reg}
    (hr : r ∈ [Reg.id, .crcValue, .outlen, .next, .chLen, .chType, .chCrc, .chCrcCalc, .chKind, .chunkCnt, .zhdrIn, .ztrailer,
      .zadlerCalc, .sigHi, .sigLo, .bufsize]) : s.writeReg r v = s := by
  cases r <;> simp at hr <;> rfl

/-! ### The registers of the parameters (10_state.md R64, R65) -/

/-- The inverse of `be32_beword`: the big-endian bytes of `beword x` are the first four of `x`. -/
theorem be32_of_beword {x : Bytes} (h : 4 ≤ x.length) : be32 (beword x) = x.take 4 := by
  match x, h with
  | a :: b :: c :: d :: _, _ => exact be32_bytes a b c d

theorem State.be32_sigHi_sigLo (s : State) : be32 (s.readReg .sigHi) ++ be32 (s.readReg .sigLo) = s.sig := by
  have hl : s.sig.length = 8 := s.sig_length
  have hd : (s.sig.drop 4).length = 4 := by rw [List.length_drop, hl]
  calc be32 (beword s.sig) ++ be32 (beword (s.sig.drop 4))
      = s.sig.take 4 ++ (s.sig.drop 4).take 4 := by rw [be32_of_beword (by omega), be32_of_beword hd.ge]
    _ = s.sig := by rw [List.take_of_length_le hd.le, List.take_append_drop]

theorem State.bufsize_toNat (s : State) : (s.readReg .bufsize).toNat = s.bufBytes := by
  have hb := s.bufBytes_le
  exact Nat.mod_eq_of_lt (by omega)

/-- Settles O51: the write is ignored, and the parameters are read back byte by byte. -/
theorem readOnlyRegisters : Obligations.ReadOnlyRegisters :=
  fun s v _ hr => ⟨s.writeReg_readOnly v hr, rfl, s.be32_sigHi_sigLo, s.bufsize_toNat⟩

/-! ### STATUS and CTRL -/

/-- A concatenation as a number: the left part above the right one. -/
theorem toNat_append_add {m n : Nat} (x : BitVec m) (y : BitVec n) : (x ++ y).toNat = x.toNat * 2 ^ n + y.toNat := by
  rw [BitVec.toNat_append, ← Nat.shiftLeft_add_eq_or_of_lt y.isLt, Nat.shiftLeft_eq]

theorem bit_toNat (b : Bool) : (bit b).toNat = b.toNat := BitVec.toNat_ofBool b

theorem State.statusWord_toNat (s : State) :
    s.statusWord.toNat =
      s.busy.toNat + 2 * s.status.done.toNat + 4 * s.status.err.toNat + 256 * s.status.errcode.toNat
        + 65536 * s.status.crcOk.toNat + 131072 * s.status.ztrlOk.toNat := by
  unfold State.statusWord
  simp only [toNat_append_add, bit_toNat, BitVec.toNat_ofNat]
  omega

theorem State.acknowledge_eq (s : State) (v : Word) :
    s.acknowledge v =
      { s with status := { s.status with
          done := if v.getLsbD 1 = true then false else s.status.done
          err := if v.getLsbD 2 = true then false else s.status.err
          errcode := if v.getLsbD 2 = true then 0x00 else s.status.errcode } } := by
  unfold State.acknowledge
  cases v.getLsbD 1 <;> cases v.getLsbD 2 <;> simp

/-- Settles O52: STATUS as a sum of its fields, and a STATUS write as `State.acknowledge`. -/
theorem statusRegister : Obligations.StatusRegister := ⟨State.statusWord_toNat, State.acknowledge_eq⟩

theorem State.writeCtrl_store (s : State) {v : Word} (h : v.getLsbD 1 = false) :
    s.writeCtrl v = { s with ie := v.getLsbD 0 } := if_neg (Bool.eq_false_iff.1 h)

theorem State.writeCtrl_reset (s : State) {v : Word} (h : v.getLsbD 1 = true) : s.writeCtrl v = s.softReset := if_pos h

theorem State.ctrlWord_toNat (s : State) : s.ctrlWord.toNat = s.ie.toNat := by
  unfold State.ctrlWord
  cases s.ie <;> rfl

/-- Settles O53: bit 1 decides between the store and the soft reset. -/
theorem ctrlWrite : Obligations.CtrlWrite := by
  refine fun s v => ⟨s.writeCtrl_store, fun h => ?_, s.ctrlWord_toNat⟩
  have hs : s.writeReg .ctrl v = s.softReset := s.writeCtrl_reset h
  exact ⟨hs, by rw [hs]; exact s.dropPending.resetRegs_ie⟩

/-! ### Power-on reset (70_reset_and_hazards.md R340, R341) -/

/-- The reset state and the state after a power-on reset have every register at reset already. -/
theorem resetRegs_eq_self {p : Params} {s t : State} (h : t = State.resetWith p ∨ t = s.powerOn) : t.resetRegs = t := by
  obtain rfl | rfl := h <;> rfl

theorem statusWord_resetWith (p : Params) : (State.resetWith p).statusWord = 0 := by
  apply BitVec.eq_of_toNat_eq
  rw [State.statusWord_toNat]
  rfl

/-- The registers that read 0 after reset (10_state.md R30). -/
theorem readReg_resetWith_zero (p : Params) {r : Reg}
    (hr : r ∈ [Reg.ctrl, .status, .cmd, .src, .len, .dst, .dcap, .type, .outlen, .next, .chLen, .chType, .chCrc, .chCrcCalc,
      .chKind, .chunkCnt, .zhdrIn, .ztrailer, .zadlerCalc]) : (State.resetWith p).readReg r = 0 := by
  cases r <;> simp at hr
  case status => exact statusWord_resetWith p
  all_goals rfl

/-- CRC_VALUE after reset (10_state.md R30). -/
theorem crcFinal_crcInit : crcFinal Config.crcInit = 0 := by decide

/-- A due event reaches the block (20_memory.md R96). -/
theorem step_due {s : State} {e : Event} {es : List Arrival} (h : s.arrivals = ⟨0, e⟩ :: es) :
    step s = .next (State.arrive { s with arrivals := es } e) := by
  simp only [step, State.advance, h]

/-- Settles O54: a state that resetting its registers leaves as it is reads as the reset state. -/
theorem powerOnReset : Obligations.PowerOnReset := by
  refine ⟨fun p s t h => ?_, ⟨by decide, by decide⟩, fun s es h => step_due h⟩
  have ht := resetRegs_eq_self h
  have hreg (r : Reg) : t.readReg r = (State.resetWith t.par).readReg r := by
    rw [← t.resetRegs_readReg, ht]
  have heng : t.eng = .idle := by rw [← ht]; rfl
  have hirq : t.irq = false := by rw [← ht]; rfl
  exact ⟨heng, hirq, rfl, hreg .ceil, hreg .zhdrOut, hreg .crcState, (hreg .crcValue).trans crcFinal_crcInit, hreg .adler,
    t.be32_sigHi_sigLo, t.bufsize_toNat, fun r hr => (hreg r).trans (readReg_resetWith_zero _ hr)⟩

end Sys2Proof.Machine
end

section
/-! SUPPORT and SETTLED STATEMENTS of 20_memory.md: which accesses are held, what a read can change, the bus errors, and the
host's lanes in the buffer window. -/

namespace Sys2Proof.Machine

/-! ### Which accesses are held (20_memory.md R87, R88) -/

theorem HostAccess.holdable_eq_true {a : HostAccess} :
    a.holdable = true ↔ a.off ≠ 0x000 ∧ a.off ≠ 0x004 ∧ a.off ≠ 0x008 := by
  simp [HostAccess.holdable, and_assoc]

theorem HostAccess.holdable_eq_false {a : HostAccess} :
    a.holdable = false ↔ a.off = 0x000 ∨ a.off = 0x004 ∨ a.off = 0x008 := by
  rw [← Bool.not_eq_true, HostAccess.holdable_eq_true, not_and_or, not_and_or, not_not, not_not, not_not]

theorem State.busy_of_pending {s : State} {w : Word} (h : s.eng = .pending w) : s.busy = true := by
  simp only [State.busy, h]

theorem State.busWaits_of_pending {s : State} {w : Word} (h : s.eng = .pending w) : s.busWaits = true := by
  simp [State.busWaits, State.busy_of_pending h]

theorem State.busWaits_of_idle {s : State} (h : s.eng = .idle) (hh : s.held = []) : s.busWaits = false := by
  simp [State.busWaits, State.busy, h, hh]

/-- An access that may be held joins the end of the held list while the bus waits. -/
theorem State.arrive_access_held {s : State} {a : HostAccess} (ha : a.holdable = true) (hw : s.busWaits = true) :
    s.arrive (.access a) = { s with held := s.held ++ [a] } := if_pos (by rw [ha, hw]; rfl)

/-- An access that is never held, or that finds the bus free, is performed at once. -/
theorem State.arrive_access_performed {s : State} {a : HostAccess} (h : a.holdable = false ∨ s.busWaits = false) :
    s.arrive (.access a) = s.perform a :=
  if_neg (by rwa [Bool.and_eq_true_iff, not_and_or, Bool.not_eq_true, Bool.not_eq_true])

/-! ### The block's own move at IDLE (20_memory.md R87, 70_reset_and_hazards.md R344) -/

theorem State.blockMove_idle_held {s : State} {a : HostAccess} {as : List HostAccess} (h : s.eng = .idle)
    (hh : s.held = a :: as) : s.blockMove = .next (State.perform { s with held := as } a) := by
  simp only [State.blockMove, h, hh]

theorem State.blockMove_idle_waits {s : State} (h : s.eng = .idle) (hh : s.held = []) : s.blockMove = .next s := by
  simp only [State.blockMove, h, hh]

theorem step_of_no_arrivals {s : State} (h : s.arrivals = []) : step s = s.blockMove := by
  simp only [step, State.advance, h]

/-- Settles O7: `step_due`, and the wait of an IDLE block. -/
theorem stepTakesDueEvents : Obligations.StepTakesDueEvents :=
  ⟨fun _ _ _ => step_due, fun _ he hh ha => (step_of_no_arrivals ha).trans (State.blockMove_idle_waits he hh)⟩

theorem State.dropPending_held (s : State) : s.dropPending.held = s.held := by
  obtain hd | ⟨w, i, -, -, -, hd⟩ := s.dropPending_cases
  · rw [hd]
  · rw [hd, State.undefinedBytes_held]

/-- Settles O8: a pending engine makes the bus wait, IDLE with none held leaves it free, and a held access is the move of an
IDLE block. -/
theorem heldWhilePending : Obligations.HeldWhilePending := by
  refine ⟨fun s w a es he ha h0 h4 h8 => ?_, fun s a as he hh hn => ?_, fun s v hv => ?_, fun s a es he hh ha => ?_⟩
  · have hw : State.busWaits { s with arrivals := es } = true := State.busWaits_of_pending he
    rw [step_due ha, State.arrive_access_held (HostAccess.holdable_eq_true.2 ⟨h0, h4, h8⟩) hw]
  · obtain ⟨heng, hheld, -⟩ := s.ticked_fields
    rw [step_noneDue s hn, State.blockMove_idle_held (heng.trans he) (hheld.trans hh)]
  · rw [s.writeCtrl_reset hv]
    exact ⟨s.dropPending.resetRegs_eng, s.dropPending_held⟩
  · have hw : State.busWaits { s with arrivals := es } = false := State.busWaits_of_idle he hh
    rw [step_due ha, State.arrive_access_performed (.inr hw)]

/-- BUSY is bit 0 of STATUS (10_state.md R35). -/
theorem State.statusWord_bit0 (s : State) : s.statusWord.getLsbD 0 = s.busy := by
  unfold State.statusWord bit
  rw [BitVec.getLsbD_append]
  simp

/-- A word read at 0x008 answers STATUS. -/
theorem State.perform_readStatus (s : State) :
    s.perform ⟨0x008, .word, .read⟩ = { s with rsp := some (.readOk s.statusWord) } := rfl

/-- Settles O9: an access that is never held is performed as it arrives, and a STATUS read reports BUSY. -/
theorem neverHeldOffsets : Obligations.NeverHeldOffsets := by
  have hnow (s : State) (a : HostAccess) (es : List Arrival) (ha : s.arrivals = ⟨0, .access a⟩ :: es)
      (ho : a.off = 0x000 ∨ a.off = 0x004 ∨ a.off = 0x008) :
      step s = .next (State.perform { s with arrivals := es } a) := by
    rw [step_due ha, State.arrive_access_performed (.inl (HostAccess.holdable_eq_false.2 ho))]
  refine ⟨hnow, fun s w es he ha => ⟨State.statusWord { s with arrivals := es }, ?_, ?_⟩⟩
  · rw [hnow s _ es ha (.inr (.inr rfl)), State.perform_readStatus]
  · rw [State.statusWord_bit0]
    exact State.busy_of_pending he

/-! ### Bus errors and reads (20_memory.md R81–R85, R93) -/

/-- Settles O57: such an access reaches no target, so only the response, and for a read the draw behind its data, change. -/
theorem busErrors : Obligations.BusErrors := by
  intro s a h
  have ht : a.target s.bufBytes = .busError := a.target_busError s.bufBytes h
  exact ⟨fun _ ho => s.perform_write ho ht, fun ho => ⟨_, s.perform_read ho ht⟩⟩

/-- A read changes the response and, for a bus error, the draw counter (20_memory.md R93). -/
theorem State.performRead_frame (s : State) (t : Target) (n : Nat) :
    ∃ r d, s.performRead t n = { s with rsp := some r, draws := d } := by
  cases t with
  | register r => exact ⟨_, s.draws, rfl⟩
  | reserved => exact ⟨_, s.draws, rfl⟩
  | buffer a => exact ⟨_, s.draws, rfl⟩
  | busError => exact ⟨_, s.draws + 1, rfl⟩

/-- Settles O59, target by target. -/
theorem readsHaveNoSideEffect : Obligations.ReadsHaveNoSideEffect := by
  intro s a ho
  rw [s.perform_read ho rfl]
  exact s.performRead_frame _ _

/-! ### Lanes of the buffer window (20_memory.md R83) -/

/-- Every byte outside the range of a MemWrite reads as before. -/
theorem State.memWrite_bufSameOutside (s : State) (a : Nat) (xs : Bytes) :
    bufSameOutside s (s.memWrite a xs) a xs.length := by
  intro c hc
  rw [s.bufByte_memWrite, dif_neg (by omega)]

/-- Byte `i` of the range of a MemWrite reads as byte `i` of the string. -/
theorem State.bufByte_memWrite_getElem (s : State) (a : Nat) (xs : Bytes) {i : Nat} (h : i < xs.length) :
    (s.memWrite a xs).bufByte (a + i) = xs[i] := by
  rw [s.bufByte_memWrite, dif_pos (by omega)]
  simp only [Nat.add_sub_cancel_left]

/-- The window's lanes as a number: byte `i` of BUF weighs 256^i. -/
theorem State.leWord_memRead_toNat (s : State) (b : Nat) {n : Nat} (h : n ≤ 4) :
    (leWord (s.memRead b n)).toNat = ((List.range n).map fun i => (s.bufByte (b + i)).toNat * 256 ^ i).sum := by
  obtain ⟨hsum, -⟩ := leWord_toNat (s.memRead b n) (by rwa [s.memRead_length])
  rw [hsum, s.memRead_length]
  congr 1
  refine List.map_congr_left fun i hi => ?_
  have hlt : i < (s.memRead b n).length := by rw [s.memRead_length]; exact List.mem_range.1 hi
  rw [List.getElem?_eq_getElem hlt, Option.getD_some, s.memRead_getElem b n i hlt]

theorem AccessSize.bytes_le (z : AccessSize) : z.bytes ≤ 4 := by
  cases z <;> decide

/-- Settles O58: an aligned access inside BUF reaches it; a write stores its low bytes, a read answers their sum. -/
theorem windowLanes : Obligations.WindowLanes := by
  intro s a b hoff halign hfit
  have ht : a.target s.bufBytes = .buffer b := a.target_buffer s.bufBytes b hoff halign hfit
  refine ⟨fun v ho => ?_, fun ho => ?_⟩
  · have hlen : (leBytes a.size.bytes v).length = a.size.bytes := leBytes_length _ v
    have hp : s.perform a = { s.memWrite b (leBytes a.size.bytes v) with rsp := some .writeOk } := s.perform_write ho ht
    have hbyte (c : Nat) : (s.perform a).bufByte c = (s.memWrite b (leBytes a.size.bytes v)).bufByte c := by
      rw [hp]
      rfl
    refine ⟨by rw [hp], fun i hi => ?_, fun c hc => ?_, by rw [hp]; rfl⟩
    · have hlt : i < (leBytes a.size.bytes v).length := by rwa [hlen]
      rw [hbyte, s.bufByte_memWrite_getElem b _ hlt, leBytes_getElem]
    · rw [hbyte]
      exact s.memWrite_bufSameOutside b _ c (by rwa [hlen])
  · exact ⟨_, s.perform_read ho ht, s.leWord_memRead_toNat b a.size.bytes_le⟩

end Sys2Proof.Machine
end

section
/-! SUPPORT and SETTLED STATEMENTS of 30_encoding.md: the words that decode, as fields and as numbers; the opcode map's match and
mask pairs; the end of an illegal word. -/

namespace Sys2Proof

/-! ### The words that decode -/

theorem plainCommand_eq_cmd {imm : Byte} {i j : Instr} : plainCommand imm i = .cmd j ↔ imm = 0 ∧ i = j := by
  by_cases h : imm = 0
  · simp [plainCommand, h]
  · rw [plainCommand, if_neg h]
    exact ⟨nofun, fun ⟨h0, _⟩ => absurd h0 h⟩

theorem decodeFields_opc_imm8 (i : Instr) : decodeFields i.opc i.imm8 = .cmd i := by
  cases i <;> rfl

/-- The opcode map inverted: the two fields are those of the command (30_encoding.md R114). -/
theorem fields_of_decodeFields {opc imm : Byte} {i : Instr} (h : decodeFields opc imm = .cmd i) :
    opc = i.opc ∧ imm = i.imm8 := by
  unfold decodeFields at h
  split at h
  case h_4 | h_8 => cases h; exact ⟨rfl, rfl⟩
  case h_19 => cases h
  all_goals
    obtain ⟨rfl, rfl⟩ := plainCommand_eq_cmd.1 h
    exact ⟨rfl, rfl⟩

/-- A word decodes to a command exactly when its fields are the command's (30_encoding.md R116). -/
theorem decode_eq_cmd_iff {w : Word} {i : Instr} :
    decode w = .cmd i ↔ rsvField w = 0 ∧ opcField w = i.opc ∧ imm8Field w = i.imm8 := by
  unfold decode
  split
  next hr => exact ⟨nofun, fun ⟨h, _⟩ => absurd h hr⟩
  next hr =>
    refine ⟨fun h => ⟨not_not.1 hr, fields_of_decodeFields h⟩, fun ⟨_, ho, hi⟩ => ?_⟩
    rw [ho, hi, decodeFields_opc_imm8]

/-- A word is its three fields, one after the other (30_encoding.md R110). -/
theorem append_fields (w : Word) : (rsvField w ++ imm8Field w) ++ opcField w = w := by
  apply BitVec.eq_of_toNat_eq
  rw [Machine.toNat_append_add, Machine.toNat_append_add, rsvField_toNat, imm8Field_toNat, opcField_toNat]
  omega

theorem decode_encode (i : Instr) : decode (encode i) = .cmd i := decode_eq_cmd_iff.2 (Laws.EncodedFields.all i)

theorem encode_of_decode {w : Word} {i : Instr} (h : decode w = .cmd i) : encode i = w := by
  obtain ⟨hrsv, hopc, himm⟩ := decode_eq_cmd_iff.1 h
  rw [← append_fields w, hrsv, himm, hopc]
  rfl

/-- Settles O3: an encoded command has the command's fields, and a word that decodes is its fields put together. -/
theorem decodeEncodeAgree : Obligations.DecodeEncodeAgree :=
  ⟨fun i _ => decode_encode i, fun _ _ => encode_of_decode⟩

/-! ### The decoding function on numbers -/

/-- `decode_eq_cmd_iff` with the fields cut out by division. -/
theorem decode_eq_cmd_iff_toNat {w : Word} {i : Instr} :
    decode w = .cmd i ↔ w.toNat / 65536 = 0 ∧ w.toNat % 256 = i.opc.toNat ∧ w.toNat / 256 % 256 = i.imm8.toNat := by
  rw [decode_eq_cmd_iff, rsvField_eq_zero, ← opcField_toNat, ← imm8Field_toNat, BitVec.toNat_inj, BitVec.toNat_inj]

theorem decode_illegal_iff {w : Word} : (∃ why, decode w = .illegal why) ↔ ∀ i, decode w ≠ .cmd i := by
  cases decode w <;> simp

/-- The commands without an operand, by opcode: the rows of 30_encoding.md R114 whose IMM8 must be 0. -/
def plainCommands : List (Nat × Instr) :=
  [(0x00, .nop), (0x01, .crcInit), (0x02, .crcUpdate), (0x04, .crc32), (0x08, .adlerInit), (0x09, .adlerUpdate),
   (0x0B, .adler32), (0x10, .zwrap), (0x11, .zunwrap), (0x12, .zframe), (0x13, .zstrip), (0x20, .sigEmit),
   (0x21, .sigCheck), (0x22, .chunkEmit), (0x23, .chunkParse), (0x24, .chunkSplit)]

/-- The opcodes of 30_encoding.md R114. -/
def assignedOpcodes : List Nat :=
  [0x00, 0x01, 0x02, 0x03, 0x04, 0x08, 0x09, 0x0A, 0x0B, 0x10, 0x11, 0x12, 0x13, 0x20, 0x21, 0x22, 0x23, 0x24]

/-- Every command is one of the two IMM commands or stands among the plain ones. -/
theorem Instr.imm_or_plain (i : Instr) :
    (∃ imm, i = .crcUpdateImm imm) ∨ (∃ imm, i = .adlerUpdateImm imm) ∨ (i.opc.toNat, i) ∈ plainCommands := by
  cases i
  case crcUpdateImm imm => exact .inl ⟨imm, rfl⟩
  case adlerUpdateImm imm => exact .inr (.inl ⟨imm, rfl⟩)
  all_goals exact .inr (.inr (by decide))

theorem plainCommands_fields : ∀ p ∈ plainCommands, p.2.opc.toNat = p.1 ∧ p.2.imm8 = 0 := by decide

theorem assignedOpcodes_imm_or_plain :
    ∀ n ∈ assignedOpcodes, n = 0x03 ∨ n = 0x0A ∨ n ∈ plainCommands.map Prod.fst := by decide

theorem Instr.opc_mem_assignedOpcodes (i : Instr) : i.opc.toNat ∈ assignedOpcodes := by
  cases i <;> simp [Instr.opc, assignedOpcodes]

/-- Only opcodes 0x03 and 0x0A take an operand (30_encoding.md R112). -/
theorem Instr.imm8_eq_zero {i : Instr} (h3 : i.opc.toNat ≠ 0x03) (hA : i.opc.toNat ≠ 0x0A) : i.imm8 = 0 := by
  obtain ⟨imm, rfl⟩ | ⟨imm, rfl⟩ | hp := i.imm_or_plain
  · exact absurd rfl h3
  · exact absurd rfl hA
  · exact (plainCommands_fields _ hp).2

/-- Each of the three conditions of 30_encoding.md R115 makes a word illegal. -/
theorem decode_illegal {w : Word}
    (h : w.toNat % 256 ∉ assignedOpcodes ∨ w.toNat / 65536 ≠ 0
      ∨ (w.toNat % 256 ≠ 0x03 ∧ w.toNat % 256 ≠ 0x0A ∧ w.toNat / 256 % 256 ≠ 0)) :
    ∃ why, decode w = .illegal why := by
  refine decode_illegal_iff.2 fun i hi => ?_
  obtain ⟨hrsv, hopc, himm⟩ := decode_eq_cmd_iff_toNat.1 hi
  rw [hopc, himm] at h
  obtain ha | hb | ⟨h3, hA, hc⟩ := h
  · exact ha i.opc_mem_assignedOpcodes
  · exact hb hrsv
  · exact hc (by rw [Instr.imm8_eq_zero h3 hA]; rfl)

/-- Settles O2: the legal words by their fields, the others by the conditions of R115. -/
theorem decodingFunction : Obligations.DecodingFunction := by
  intro w opc imm rsv plain
  refine ⟨fun hr => decode_illegal (.inr (.inl hr)), fun hr ho => ?_, fun hr ho => ?_, fun hr hi p hp ho => ?_,
    fun _ h3 hA h => ?_⟩
  · exact decode_eq_cmd_iff.2 ⟨(rsvField_eq_zero w).2 hr, opcField_eq w 0x03 ho, imm8Field_eq w⟩
  · exact decode_eq_cmd_iff.2 ⟨(rsvField_eq_zero w).2 hr, opcField_eq w 0x0A ho, imm8Field_eq w⟩
  · obtain ⟨hopc, himm8⟩ := plainCommands_fields p hp
    exact decode_eq_cmd_iff_toNat.2 ⟨hr, ho.trans hopc.symm, by rw [himm8]; exact hi⟩
  · obtain hi | hu := h
    · exact decode_illegal (.inr (.inr ⟨h3, hA, hi⟩))
    · refine decode_illegal (.inl fun hm => ?_)
      obtain h | h | h := assignedOpcodes_imm_or_plain _ hm
      · exact h3 h
      · exact hA h
      · exact hu h

/-- Settles O1: each word computed. -/
theorem decodeOfSpecWords : Obligations.DecodeOfSpecWords := by
  unfold Obligations.DecodeOfSpecWords
  decide

/-! ### The match and mask pairs (30_encoding.md R114) -/

theorem OpcodeRow.covers_iff {r : OpcodeRow} {w : Word} : r.covers w = true ↔ w &&& r.mask = r.pattern := beq_iff_eq

/-- The mask of the IMM rows keeps RSV and OPC. -/
theorem and_immMask (w : Word) : w &&& 0xFFFF00FF = (rsvField w ++ 0#8) ++ opcField w := by
  have hmask : (0xFFFF00FF : Word) = (BitVec.allOnes 16 ++ 0#8) ++ BitVec.allOnes 8 := rfl
  rw [hmask]
  nth_rw 1 [← append_fields w]
  rw [BitVec.and_append, BitVec.and_append, BitVec.and_allOnes, BitVec.and_zero, BitVec.and_allOnes]

/-- The IMM row of opcode `o` covers the words with RSV = 0 and OPC = `o`. -/
theorem and_immMask_eq_iff {w : Word} {o : Byte} :
    w &&& 0xFFFF00FF = (0#16 ++ 0#8) ++ o ↔ rsvField w = 0 ∧ opcField w = o := by
  rw [and_immMask]
  refine ⟨fun h => ?_, fun ⟨hr, ho⟩ => by rw [hr, ho]; rfl⟩
  have ho : opcField w = o := by
    have hx := congrArg (BitVec.extractLsb' 0 8) h
    rwa [BitVec.extractLsb'_append_eq_right, BitVec.extractLsb'_append_eq_right] at hx
  rw [ho, BitVec.append_left_inj, BitVec.append_left_inj] at h
  exact ⟨h, ho⟩

/-- A row compares the whole word with a plain command's, or all but IMM8 with an IMM command's. -/
theorem opcodeTable_plain_or_imm : ∀ r ∈ opcodeTable,
    (r.mask = 0xFFFFFFFF ∧ ∃ p ∈ plainCommands, r.pattern = encode p.2)
    ∨ (r.mask = 0xFFFF00FF ∧ (r.pattern = 0x03 ∨ r.pattern = 0x0A)) := by decide

theorem plainCommands_wellFormed : ∀ p ∈ plainCommands, wordWellFormed (encode p.2) = true := by decide

theorem wordWellFormed_of_covers {r : OpcodeRow} {w : Word} (hr : r ∈ opcodeTable) (h : w &&& r.mask = r.pattern) :
    wordWellFormed w = true := List.any_eq_true.2 ⟨r, hr, OpcodeRow.covers_iff.2 h⟩

theorem wordWellFormed_encode (i : Instr) : wordWellFormed (encode i) = true := by
  have himm (o : Byte) (h : i.opc = o) : encode i &&& 0xFFFF00FF = (0#16 ++ 0#8) ++ o :=
    and_immMask_eq_iff.2 ⟨rsvField_encode i, (opcField_encode i).trans h⟩
  obtain ⟨imm, rfl⟩ | ⟨imm, rfl⟩ | hp := i.imm_or_plain
  · exact wordWellFormed_of_covers (r := ⟨"CRC_UPDATE_IMM", 0x03, 0xFFFF00FF⟩) (by simp [opcodeTable]) (himm 0x03 rfl)
  · exact wordWellFormed_of_covers (r := ⟨"ADLER_UPDATE_IMM", 0x0A, 0xFFFF00FF⟩) (by simp [opcodeTable]) (himm 0x0A rfl)
  · exact plainCommands_wellFormed (i.opc.toNat, i) hp

theorem decode_of_covers {r : OpcodeRow} {w : Word} (hr : r ∈ opcodeTable) (h : w &&& r.mask = r.pattern) :
    ∃ i, decode w = .cmd i := by
  obtain ⟨hm, p, -, hp⟩ | ⟨hm, hp⟩ := opcodeTable_plain_or_imm r hr
  · have hfull : (0xFFFFFFFF : Word) = BitVec.allOnes 32 := rfl
    have hw : w = encode p.2 := by rw [← hp, ← h, hm, hfull, BitVec.and_allOnes]
    exact ⟨p.2, by rw [hw, decode_encode]⟩
  · rw [hm] at h
    obtain hp | hp := hp
    · obtain ⟨hrsv, hopc⟩ := and_immMask_eq_iff.1 (h.trans hp : _ = (0#16 ++ 0#8) ++ 0x03#8)
      exact ⟨.crcUpdateImm (imm8Field w), decode_eq_cmd_iff.2 ⟨hrsv, hopc, rfl⟩⟩
    · obtain ⟨hrsv, hopc⟩ := and_immMask_eq_iff.1 (h.trans hp : _ = (0#16 ++ 0#8) ++ 0x0A#8)
      exact ⟨.adlerUpdateImm (imm8Field w), decode_eq_cmd_iff.2 ⟨hrsv, hopc, rfl⟩⟩

/-- Every mask keeps at least RSV and OPC, and every pattern lies in them. -/
theorem opcodeTable_within_immMask : ∀ r ∈ opcodeTable,
    r.mask &&& 0xFFFF00FF = 0xFFFF00FF ∧ r.pattern &&& 0xFFFF00FF = r.pattern := by decide

theorem opcodeTable_patterns_nodup : (opcodeTable.map OpcodeRow.pattern).Nodup := by decide

/-- RSV and OPC of a word are the pattern of the row that covers it. -/
theorem pattern_of_covers {r : OpcodeRow} {w : Word} (hr : r ∈ opcodeTable) (h : r.covers w = true) :
    r.pattern = w &&& 0xFFFF00FF := by
  obtain ⟨hmask, hpat⟩ := opcodeTable_within_immMask r hr
  rw [← hpat, ← OpcodeRow.covers_iff.1 h, BitVec.and_assoc, hmask]

/-- Settles O4: a covered word decodes and a decoded word is an encoded command; the rows' patterns differ on RSV and OPC. -/
theorem opcodeTableIsTheDecoder : Obligations.OpcodeTableIsTheDecoder := by
  refine ⟨fun w => ⟨fun h => ?_, fun ⟨i, hi⟩ => ?_⟩, fun w r₁ r₂ h₁ h₂ hc₁ hc₂ => ?_⟩
  · obtain ⟨r, hr, hc⟩ := List.any_eq_true.1 h
    exact decode_of_covers hr (OpcodeRow.covers_iff.1 hc)
  · rw [← encode_of_decode hi]
    exact wordWellFormed_encode i
  · have hp : r₁.pattern = r₂.pattern := (pattern_of_covers h₁ hc₁).trans (pattern_of_covers h₂ hc₂).symm
    exact List.inj_on_of_nodup_map opcodeTable_patterns_nodup h₁ h₂ hp

end Sys2Proof

namespace Sys2Proof.Machine

/-! ### Illegal words (30_encoding.md R115) -/

theorem State.blockMove_pending {s : State} {w : Word} (h : s.eng = .pending w) : s.blockMove = s.commandStep w := by
  simp only [State.blockMove, h]

theorem State.commandStep_illegal (s : State) {w : Word} {why : Illegal} (h : decode w = .illegal why) :
    s.commandStep w = .next (s.endedWith 0x01) := by
  simp only [State.commandStep, h]
  rfl

/-- Settles O5: the block's move is the command step, and the word does not decode. -/
theorem illegalWordEndsWithIllegal : Obligations.IllegalWordEndsWithIllegal := by
  intro s w he hn hw
  obtain ⟨why, hd⟩ := decode_illegal hw
  obtain ⟨heng, -⟩ := s.ticked_fields
  rw [step_noneDue s hn, State.blockMove_pending (heng.trans he), State.commandStep_illegal _ hd]

end Sys2Proof.Machine
end

section
/-! SUPPORT and SETTLED STATEMENTS of 40_command_execution.md: issue, the command step, the order of the checks, the two ends of a
command, and what each end may have changed. -/

namespace Sys2Proof.Machine

/-! ### Issue and the command step (40_command_execution.md R161, R162) -/

theorem State.irq_issue (s : State) (w : Word) : (s.issue w).irq = false := by
  simp [State.irq]

/-- Settles O14: the write is `State.issue`, which clears both flags behind `irq`. -/
theorem issueOfACommand : Obligations.IssueOfACommand :=
  fun s w => ⟨rfl, State.busy_of_pending (s.issue_eng w), s.irq_issue w, rfl⟩

theorem State.commandStep_cmd (s : State) {w : Word} {i : Instr} (h : decode w = .cmd i) : s.commandStep w = exec i s := by
  simp only [State.commandStep, h]

/-- Settles O6: with no event due the block moves, and the move of a pending engine is the command step. -/
theorem stepRunsDecodedCommand : Obligations.StepRunsDecodedCommand := by
  intro s w i he hd hn
  obtain ⟨heng, -⟩ := s.ticked_fields
  rw [step_noneDue s hn, State.blockMove_pending (heng.trans he), State.commandStep_cmd _ hd]

/-- Settles O24: NOP has no check and no body but the successful end. -/
theorem nopRule : Obligations.NopRule :=
  ⟨by decide, fun s => guarded_body (s := s) (List.forall_mem_nil _)⟩

/-! ### The checks every command begins with (40_command_execution.md R163–R165) -/

/-- The check `c` as a list: none where `p`, which says whether the check applies, does not hold. -/
def Check.onlyIf (c : Check) (p : Prop) [Decidable p] : List Check := if p then [c] else []

theorem Check.onlyIf_pos (c : Check) {p : Prop} [Decidable p] (h : p) : c.onlyIf p = [c] := if_pos h

theorem Check.onlyIf_passes {c : Check} {p : Prop} [Decidable p] :
    (∀ d ∈ c.onlyIf p, d.fails = false) ↔ (p → c.fails = false) := by
  by_cases h : p <;> simp [Check.onlyIf, h]

/-- Checks 2 to 5 of 40_command_execution.md R163, those that apply to the command `i`, in order. -/
def State.rangeChecks (s : State) (i : Instr) : List Check :=
  s.srcCheck.onlyIf (readsSource i = true) ++ (s.dstCheck.onlyIf (writesDest i = true)
    ++ (s.ceilCheck.onlyIf (i = .chunkSplit) ++ s.overlapCheck.onlyIf (readsSource i = true ∧ writesDest i = true)))

/-- Every command makes the range checks that apply to it, then checks of its own, then does its body (40_command_execution.md
R163). -/
theorem exec_eq_guarded (i : Instr) (s : State) :
    ∃ own body, exec i s = guarded s (s.rangeChecks i ++ own) body := by
  cases i
  case nop | crcInit | crcUpdateImm | adlerInit | adlerUpdateImm => exact ⟨[], _, rfl⟩
  all_goals exact ⟨_, _, rfl⟩

/-- The first range check that fails gives the command's code. -/
theorem exec_fails {i : Instr} {s : State} {pre post : List Check} {c : Check}
    (hl : s.rangeChecks i = pre ++ ([c] ++ post)) (hpre : ∀ d ∈ pre, d.fails = false) (hc : ¬c.fails = false) :
    exec i s = .next (s.raise c.error) := by
  obtain ⟨own, body, hx⟩ := exec_eq_guarded i s
  rw [hx, hl, List.append_assoc, List.append_assoc]
  exact guarded_fails pre c (post ++ own) hpre (fails_of_not hc)

/-- Settles O16: each clause names the first range check that fails, those before it having passed. -/
theorem checksInOrder : Obligations.ChecksInOrder := by
  intro i s
  have hsrc (h : readsSource i = true → s.SrcInRange) : ∀ d ∈ s.srcCheck.onlyIf (readsSource i = true), d.fails = false :=
    Check.onlyIf_passes.2 fun hi => (srcCheck_fails s).2 (h hi)
  have hdst (h : s.DstInRange) : ∀ d ∈ s.dstCheck.onlyIf (writesDest i = true), d.fails = false :=
    Check.onlyIf_passes.2 fun _ => (dstCheck_fails s).2 h
  have hceil (h : i = .chunkSplit → s.opr.ceil ≠ 0) : ∀ d ∈ s.ceilCheck.onlyIf (i = .chunkSplit), d.fails = false :=
    Check.onlyIf_passes.2 fun hi => (ceilCheck_fails s).2 (h hi)
  refine ⟨fun hr hn => ?_, fun hw hs hn => ?_, fun hi hs hd hz => ?_, fun hr hw hs hd hz hn => ?_⟩
  · exact exec_fails (c := s.srcCheck) (pre := [])
      (by rw [State.rangeChecks, Check.onlyIf_pos _ hr, List.nil_append]) (List.forall_mem_nil _)
      (mt (srcCheck_fails s).1 hn)
  · exact exec_fails (c := s.dstCheck) (by rw [State.rangeChecks, Check.onlyIf_pos s.dstCheck hw]) (hsrc hs)
      (mt (dstCheck_fails s).1 hn)
  · exact exec_fails (c := s.ceilCheck)
      (by rw [State.rangeChecks, Check.onlyIf_pos s.ceilCheck hi, ← List.append_assoc])
      (List.forall_mem_append.2 ⟨hsrc fun _ => hs, hdst hd⟩) (fun h => (ceilCheck_fails s).1 h hz)
  · exact exec_fails (c := s.overlapCheck) (post := [])
      (by rw [State.rangeChecks, Check.onlyIf_pos s.overlapCheck ⟨hr, hw⟩, List.append_nil, ← List.append_assoc,
        ← List.append_assoc])
      (List.forall_mem_append.2 ⟨List.forall_mem_append.2 ⟨hsrc fun _ => hs, hdst hd⟩, hceil hz⟩)
      (mt (overlapCheck_fails s).1 hn)

/-! ### Every command, every step and every run answers a next state -/

theorem guarded_total (s : State) (cs : List Check) (b : State) : ∃ t, guarded s cs b = .next t := by
  unfold guarded
  cases firstError cs with
  | none => exact ⟨b, rfl⟩
  | some e => exact ⟨s.raise e, rfl⟩

theorem exec_total (i : Instr) (s : State) : ∃ t, exec i s = .next t := by
  obtain ⟨own, body, hx⟩ := exec_eq_guarded i s
  rw [hx]
  exact guarded_total s _ body

/-- Settles O15: a command answers a next state, and each of its three ends sets the engine and the two flags. -/
theorem everyCommandEnds : Obligations.EveryCommandEnds := by
  intro i s
  obtain ⟨t, ht⟩ := exec_total i s
  refine ⟨t, ht, ?_⟩
  obtain ⟨e, -, rfl⟩ | ⟨e, -, -, rfl⟩ | ⟨u, -, rfl⟩ := exec_cases ht
  · exact ⟨s.raise_eng e, rfl⟩
  · exact ⟨s.midError_eng e, rfl⟩
  · exact ⟨u.finish_eng, rfl⟩

theorem State.commandStep_total (s : State) (w : Word) : ∃ t, s.commandStep w = .next t := by
  cases hd : decode w with
  | cmd i => rw [s.commandStep_cmd hd]; exact exec_total i s
  | illegal why => exact ⟨_, s.commandStep_illegal hd⟩

theorem State.blockMove_total (s : State) : ∃ t, s.blockMove = .next t := by
  cases he : s.eng with
  | pending w => rw [State.blockMove_pending he]; exact s.commandStep_total w
  | idle =>
    cases hh : s.held with
    | nil => exact ⟨s, State.blockMove_idle_waits he hh⟩
    | cons a as => exact ⟨_, State.blockMove_idle_held he hh⟩

theorem step_total (s : State) : ∃ t, step s = .next t := by
  match ha : s.arrivals with
  | [] => rw [step_of_no_arrivals ha]; exact s.blockMove_total
  | ⟨0, e⟩ :: es => exact ⟨_, step_due ha⟩
  | ⟨d + 1, e⟩ :: es =>
    have hn : s.NoneDue := by simp [State.NoneDue, ha]
    rw [step_noneDue s hn]
    exact s.ticked.blockMove_total

theorem run_succ {s t : State} (h : step s = .next t) (k : Nat) :
    Host.Core.run core (k + 1) s = Host.Core.run core k t := by
  have hc : core.step s = .next t := h
  simp only [Host.Core.run, hc]

/-- Settles O10, by induction on the number of steps. -/
theorem noRunStops : Obligations.NoRunStops := by
  intro s k
  induction k generalizing s with
  | zero => exact ⟨s, rfl⟩
  | succ k ih =>
    obtain ⟨t, ht⟩ := step_total s
    rw [run_succ ht]
    exact ih t

/-! ### What a command may have changed (40_command_execution.md R167–R171, R175) -/

/-- No register but STATUS reads the engine, the stored flags, BUF or the draw counter. -/
theorem State.readReg_frame {s t : State} {r : Reg} (hr : r ≠ .status)
    (ht : t = { s with eng := t.eng, status := t.status, buf := t.buf, draws := t.draws }) : t.readReg r = s.readReg r := by
  rw [ht]
  cases r
  case status => exact absurd rfl hr
  all_goals rfl

/-- Settles O18: an error end writes STATUS, BUF and draws only, a success what `Committed` allows. -/
theorem commitOfRegisters : Obligations.CommitOfRegisters := by
  intro i s t r h hr
  obtain ⟨e, -, rfl⟩ | ⟨e, -, -, rfl⟩ | ⟨u, hu, rfl⟩ := exec_cases h
  · exact ⟨fun _ => ⟨State.readReg_frame hr rfl, rfl, rfl⟩, nofun⟩
  · exact ⟨fun _ => ⟨State.readReg_frame hr rfl, rfl, rfl⟩, nofun⟩
  · exact ⟨nofun, fun _ hm => (State.readReg_frame hr rfl).trans (hu.regs r hr hm)⟩

/-- The one store `Committed` allows lies in `[DST, DST + OUTLEN)`. -/
theorem Committed.confined {i : Instr} {s u : State} (h : Committed i s u) :
    if writesDest i = true then
      u.res.outlen.toNat ≤ s.opr.dcap.toNat ∧ bufSameOutside s u s.opr.dst.toNat u.res.outlen.toNat
    else bufSame s u := by
  have hbuf := h.buf
  by_cases hw : writesDest i = true
  · rw [if_pos hw] at hbuf ⊢
    obtain ⟨out, hlen, -, hstore, hout⟩ := hbuf
    rw [hout, outlen_toNat hlen]
    refine ⟨hlen, fun c hc => ?_⟩
    calc u.bufByte c
        = (s.memWrite s.opr.dst.toNat out).bufByte c :=
          State.bufByte_congr (s := s.memWrite s.opr.dst.toNat out) hstore h.bufEpoch c
      _ = s.bufByte c := s.memWrite_bufSameOutside _ out c hc
  · rw [if_neg hw] at hbuf ⊢
    exact fun c => State.bufByte_congr hbuf h.bufEpoch c

/-- Settles O19: only a success leaves ERR clear, and a success is confined. -/
theorem writeConfinement : Obligations.WriteConfinement := by
  intro i s t h hok
  obtain ⟨e, -, rfl⟩ | ⟨e, -, -, rfl⟩ | ⟨u, hu, rfl⟩ := exec_cases h
  · cases hok
  · cases hok
  · exact hu.confined

/-- A mid-operation error leaves BUF outside the destination range (40_command_execution.md R171). -/
theorem State.midError_bufSameOutside (s : State) (e : CmdError) :
    bufSameOutside s (s.midError e) s.opr.dst.toNat s.opr.dcap.toNat :=
  fun c hc => s.bufByte_undefinedBytes_outside _ _ c hc

/-- Settles O20: an error of a check keeps BUF, a mid-operation error all outside the destination range. -/
theorem errorsAndBuf : Obligations.ErrorsAndBuf := by
  intro i s t h herr
  obtain ⟨e, -, rfl⟩ | ⟨e, he, -, rfl⟩ | ⟨u, -, rfl⟩ := exec_cases h
  · exact .inl fun _ => rfl
  · refine .inr ⟨?_, s.midError_bufSameOutside e⟩
    obtain ⟨hi, rfl⟩ | ⟨hi, rfl | rfl⟩ := he
    · exact .inl ⟨hi, rfl⟩
    · exact .inr ⟨hi, .inl rfl⟩
    · exact .inr ⟨hi, .inr rfl⟩
  · cases herr

/-- Settles O21: no end of a command touches these fields, and a success keeps them by `Committed`. -/
theorem commandsKeepOperands : Obligations.CommandsKeepOperands := by
  intro i s t h
  obtain ⟨e, -, rfl⟩ | ⟨e, -, -, rfl⟩ | ⟨u, hu, rfl⟩ := exec_cases h
  · exact ⟨rfl, rfl, rfl, rfl, rfl, rfl, rfl⟩
  · exact ⟨rfl, rfl, rfl, rfl, rfl, rfl, rfl⟩
  · exact ⟨hu.opr, hu.ie, hu.par, hu.held, hu.arrivals, hu.rsp, hu.bufEpoch⟩

end Sys2Proof.Machine
end

section
/-! SUPPORT and SETTLED STATEMENTS of 41_checksum.md: the checksum steps and their composition laws, and what each checksum
command does. -/

namespace Sys2Proof

/-- A command's word as a number: IMM8 above OPC (30_encoding.md R110). -/
theorem encode_eq_ofNat (i : Instr) : encode i = BitVec.ofNat 32 (i.imm8.toNat * 256 + i.opc.toNat) := by
  rw [← encode_toNat, BitVec.ofNat_toNat, BitVec.setWidth_eq]

end Sys2Proof

namespace Sys2Proof.Machine

/-! ### The CRC step (41_checksum.md R191, R192) -/

/-- A word is its low byte and, apart from it, the rest. -/
theorem xor_lowByte (v : Word) : (v.setWidth 8).setWidth 32 ^^^ (v >>> 8) <<< 8 = v := by
  ext i hi
  by_cases h : i < 8
  · simp [h, BitVec.getLsbD_eq_getElem hi]
  · simp [h, show 8 + (i - 8) = i by omega, BitVec.getLsbD_eq_getElem hi]

/-- Eight shifts move the word down by a byte and fold in the table entry of the byte that left it. -/
theorem crcShifts_eight (v : Word) : crcShifts 8 v = crcTable (v.setWidth 8) ^^^ v >>> 8 := by
  have hlow : ∀ i, i < 8 → ((v >>> 8) <<< 8).getLsbD i = false := fun i hi => by simp [hi]
  have hback : (v >>> 8) <<< 8 >>> 8 = v >>> 8 := by
    ext i hi
    simpa using BitVec.lt_of_getLsbD
  calc crcShifts 8 v
      = crcShifts 8 ((v.setWidth 8).setWidth 32 ^^^ (v >>> 8) <<< 8) := by rw [xor_lowByte]
    _ = crcTable (v.setWidth 8) ^^^ (v >>> 8) <<< 8 >>> 8 := by
        rw [crcShifts_xor, crcShifts_of_low_zero 8 _ hlow, crcTable]
    _ = crcTable (v.setWidth 8) ^^^ v >>> 8 := by rw [hback]

/-- A data byte lies in the low eight bits only. -/
theorem byte_ushiftRight (x : Byte) : x.setWidth 32 >>> 8 = 0#32 := by
  ext i hi
  simp

/-- Settles O40: the byte is gone after eight shifts, so both forms shift the same word down by a byte. -/
theorem crcStepBitwise : Obligations.CrcStepBitwise := by
  intro s x
  rw [← crcShifts_eq_repeat, crcShifts_eight, BitVec.ushiftRight_xor_distrib, byte_ushiftRight, BitVec.xor_zero, crcStep]

/-! ### The Adler step (41_checksum.md R200) -/

theorem adlerPack_toNat {a b : Nat} (ha : a < 65521) (hb : b < 65521) : (adlerPack a b).toNat = b * 65536 + a := by
  rw [adlerPack, toNat_append_add, BitVec.toNat_ofNat, BitVec.toNat_ofNat]
  omega

/-- Settles O42: the reduced halves are packed side by side. -/
theorem adlerStepHalves : Obligations.AdlerStepHalves := by
  intro v x a' b'
  have ha : a' < 65521 := Nat.mod_lt _ (by decide)
  have hb : b' < 65521 := Nat.mod_lt _ (by decide)
  have hstep : (adlerStep v x).toNat = b' * 65536 + a' := adlerPack_toNat ha hb
  clear_value a' b'
  exact ⟨hstep, by omega, by omega⟩

/-! ### The commands without a source range -/

/-- Settles O25: neither command has a check. -/
theorem initCommands : Obligations.InitCommands :=
  ⟨by decide, by decide, fun s =>
    ⟨guarded_body (s := s) (List.forall_mem_nil _), guarded_body (s := s) (List.forall_mem_nil _)⟩⟩

/-- Settles O26: neither command has a check, and the byte is the word's IMM8. -/
theorem immediateUpdates : Obligations.ImmediateUpdates := fun s x =>
  ⟨encode_eq_ofNat (.crcUpdateImm x), encode_eq_ofNat (.adlerUpdateImm x),
    guarded_body (s := s) (List.forall_mem_nil _), guarded_body (s := s) (List.forall_mem_nil _)⟩

/-! ### The commands over the source range -/

theorem srcCheck_passes {s : State} (h : s.SrcInRange) : ∀ c ∈ [s.srcCheck], c.fails = false :=
  List.forall_mem_singleton.2 ((srcCheck_fails s).2 h)

theorem exec_crcUpdate {s : State} (h : s.SrcInRange) :
    exec .crcUpdate s = .next { s.endedOk with crcState := crcFold s.crcState s.source } :=
  guarded_body (srcCheck_passes h)

theorem exec_adlerUpdate {s : State} (h : s.SrcInRange) :
    exec .adlerUpdate s = .next { s.endedOk with adler := adlerFold s.adler s.source } :=
  guarded_body (srcCheck_passes h)

/-- A command that reads a source range out of BUF ends with E_SRC_RANGE (40_command_execution.md R163, check 2). -/
theorem exec_srcRange {i : Instr} {s : State} (hi : readsSource i = true) (h : ¬s.SrcInRange) :
    exec i s = .next (s.endedWith 0x02) := by
  obtain ⟨hsrc, -⟩ := checksInOrder i s
  exact hsrc hi h

/-- Settles O27: the one check of both commands is that of the source range. -/
theorem crcOverSource : Obligations.CrcOverSource :=
  ⟨by decide, by decide, fun _ h => ⟨exec_crcUpdate h, guarded_body (srcCheck_passes h)⟩,
    fun _ h => ⟨exec_srcRange rfl h, exec_srcRange rfl h⟩⟩

/-- Settles O28: the one check of both commands is that of the source range. -/
theorem adlerOverSource : Obligations.AdlerOverSource :=
  ⟨by decide, by decide, fun _ h => ⟨exec_adlerUpdate h, guarded_body (srcCheck_passes h)⟩,
    fun _ h => ⟨exec_srcRange rfl h, exec_srcRange rfl h⟩⟩

/-! ### Composition (41_checksum.md R197, R205) -/

theorem crcFold_eq_foldl (s : Word) (xs : Bytes) : crcFold s xs = xs.foldl crcStep s := by
  induction xs generalizing s with
  | nil => rfl
  | cons x xs ih => exact ih (crcStep s x)

theorem crcFold_append (s : Word) (x y : Bytes) : crcFold (crcFold s x) y = crcFold s (x ++ y) := by
  simp only [crcFold_eq_foldl, List.foldl_append]

theorem adlerFold_eq_foldl (v : Word) (xs : Bytes) : adlerFold v xs = xs.foldl adlerStep v := by
  induction xs generalizing v with
  | nil => rfl
  | cons x xs ih => exact ih (adlerStep v x)

theorem adlerFold_append (v : Word) (x y : Bytes) : adlerFold (adlerFold v x) y = adlerFold v (x ++ y) := by
  simp only [adlerFold_eq_foldl, List.foldl_append]

/-- Operands within BUF lose nothing in 32 bits. -/
theorem State.withSource_toNat {s : State} {a n : Nat} (h : a + n ≤ s.bufBytes) :
    (s.withSource a n).opr.src.toNat = a ∧ (s.withSource a n).opr.len.toNat = n := by
  have hb := s.bufBytes_le
  exact ⟨Nat.mod_eq_of_lt (by omega), Nat.mod_eq_of_lt (by omega)⟩

theorem State.withSource_srcInRange {s : State} {a n : Nat} (h : a + n ≤ s.bufBytes) : (s.withSource a n).SrcInRange := by
  obtain ⟨hsrc, hlen⟩ := withSource_toNat h
  rw [State.SrcInRange, hsrc, hlen]
  exact h

theorem State.withSource_source {s : State} {a n : Nat} (h : a + n ≤ s.bufBytes) :
    (s.withSource a n).source = s.memRead a n := by
  obtain ⟨hsrc, hlen⟩ := withSource_toNat h
  rw [State.source, hsrc, hlen]
  exact State.memRead_congr rfl rfl a n

/-- The command `i`, with its source range within BUF, folds the source bytes into the register `reg` by `f` and leaves BUF. -/
def FoldsSource (i : Instr) (reg : State → Word) (f : Word → Bytes → Word) : Prop :=
  ∀ s : State, s.SrcInRange → ∃ t, exec i s = .next t ∧ reg t = f (reg s) s.source ∧ bufSame s t

theorem crcUpdate_foldsSource : FoldsSource .crcUpdate State.crcState crcFold :=
  fun _ h => ⟨_, exec_crcUpdate h, rfl, fun _ => rfl⟩

theorem adlerUpdate_foldsSource : FoldsSource .adlerUpdate State.adler adlerFold :=
  fun _ h => ⟨_, exec_adlerUpdate h, rfl, fun _ => rfl⟩

/-- `FoldsSource` for a source range given by `withSource`. -/
theorem FoldsSource.withSource {i : Instr} {reg : State → Word} {f : Word → Bytes → Word} (hi : FoldsSource i reg f)
    (hreg : ∀ s a n, reg (State.withSource s a n) = reg s) {s : State} {a n : Nat} (h : a + n ≤ s.bufBytes) :
    ∃ t, exec i (s.withSource a n) = .next t ∧ reg t = f (reg s) (s.memRead a n) ∧ bufSame s t := by
  obtain ⟨t, ht, hval, hbuf⟩ := hi _ (State.withSource_srcInRange h)
  rw [hreg, State.withSource_source h] at hval
  exact ⟨t, ht, hval, hbuf⟩

/-- A fold that composes on byte strings composes on commands over adjoining ranges: the first command leaves the second one's
bytes as they were, and the two ranges together are the whole range. -/
theorem FoldsSource.adjoining {i : Instr} {reg : State → Word} {f : Word → Bytes → Word} (hi : FoldsSource i reg f)
    (hreg : ∀ s a n, reg (State.withSource s a n) = reg s) (hf : ∀ v x y, f (f v x) y = f v (x ++ y))
    {s t : State} {a m n : Nat} (h : a + m + n ≤ s.bufBytes) (ht : exec i (s.withSource a m) = .next t) :
    ∃ u v, exec i (t.withSource (a + m) n) = .next u ∧ exec i (s.withSource a (m + n)) = .next v ∧ reg u = reg v := by
  obtain ⟨t', ht', htval, htbuf⟩ := hi.withSource hreg (s := s) (a := a) (n := m) (by omega)
  obtain rfl : t = t' := Host.Outcome.next.inj (ht.symm.trans ht')
  have hsize : t.bufBytes = s.bufBytes := congrArg (fun p : Params => p.bufBytes.val) (exec_par (s := s.withSource a m) ht)
  obtain ⟨u, hu, huval, -⟩ := hi.withSource hreg (s := t) (a := a + m) (n := n) (by omega)
  obtain ⟨v, hv, hvval, -⟩ := hi.withSource hreg (s := s) (a := a) (n := m + n) (by omega)
  refine ⟨u, v, hu, hv, ?_⟩
  calc reg u
      = f (f (reg s) (s.memRead a m)) (s.memRead (a + m) n) := by
        rw [huval, htval, State.memRead_eq_of_bufByte fun c _ _ => htbuf c]
    _ = f (reg s) (s.memRead a (m + n)) := by rw [hf, s.memRead_append]
    _ = reg v := hvval.symm

/-- Settles O41: a fold over bytes composes, and CRC_UPDATE is one. -/
theorem crcComposition : Obligations.CrcComposition :=
  ⟨crcFold_append, fun _ _ _ _ _ h ht => crcUpdate_foldsSource.adjoining (fun _ _ _ => rfl) crcFold_append h ht⟩

/-- Settles O43: a fold over bytes composes, and ADLER_UPDATE is one. -/
theorem adlerComposition : Obligations.AdlerComposition :=
  ⟨adlerFold_append, fun _ _ _ _ _ h ht => adlerUpdate_foldsSource.adjoining (fun _ _ _ => rfl) adlerFold_append h ht⟩

end Sys2Proof.Machine
end

section
/-! SUPPORT and SETTLED STATEMENTS of 42_zlib.md: the checks of the wrapper commands, the parts of a stream in the source range,
what each command writes, and the composition of commands. -/

namespace Sys2Proof.Machine

/-! ### The checks (42_zlib.md R231, R235, R245, R250) -/

/-- A command with a source and a destination range and no ceiling makes checks 2, 3 and 5 of 40_command_execution.md R163. -/
theorem exec_rangeErrors {i : Instr} (hr : readsSource i = true) (hw : writesDest i = true) (hi : i ≠ .chunkSplit) (s : State) :
    (¬s.SrcInRange → exec i s = .next (s.endedWith 0x02))
    ∧ (s.SrcInRange → ¬s.DstInRange → exec i s = .next (s.endedWith 0x03))
    ∧ (s.SrcInRange → s.DstInRange → ¬s.Apart → exec i s = .next (s.endedWith 0x04)) := by
  obtain ⟨hsrc, hdst, -, hover⟩ := checksInOrder i s
  exact ⟨hsrc hr, fun hs => hdst hw fun _ => hs, fun hs hd => hover hr hw hs hd fun h => absurd h hi⟩

/-- `pass_ranges`, with checks of the command's own after the range checks. -/
theorem pass_ranges_append {s : State} (hs : s.SrcInRange) (hd : s.DstInRange) (ha : s.Apart) {own : List Check}
    (hown : ∀ c ∈ own, c.fails = false) :
    ∀ c ∈ [s.srcCheck, s.dstCheck, s.overlapCheck] ++ own, c.fails = false :=
  List.forall_mem_append.2 ⟨pass_ranges hs hd ha, hown⟩

theorem ztruncCheck_passes {s : State} (h : 6 ≤ s.opr.len.toNat) : ∀ c ∈ [s.ztruncCheck], c.fails = false :=
  List.forall_mem_singleton.2 ((ztruncCheck_fails s).2 h)

theorem capCheck_passes {s : State} {n : Nat} (h : n ≤ s.opr.dcap.toNat) : ∀ c ∈ [s.capCheck n], c.fails = false :=
  List.forall_mem_singleton.2 ((capCheck_fails s n).2 h)

theorem ztruncCheck_stops {s : State} (h : s.opr.len.toNat < 6) : s.ztruncCheck.fails = true :=
  fails_of_not (mt (ztruncCheck_fails s).1 (Nat.not_le_of_lt h))

theorem capCheck_stops {s : State} {n : Nat} (h : s.opr.dcap.toNat < n) : (s.capCheck n).fails = true :=
  fails_of_not (mt (capCheck_fails s n).1 (Nat.not_le_of_lt h))

/-! ### The parts of a stream in the source range (42_zlib.md R230, R235) -/

theorem State.zlibPayload_source {s : State} (h : 6 ≤ s.opr.len.toNat) :
    zlibPayload s.source = s.memRead (s.opr.src.toNat + 2) (s.opr.len.toNat - 6) :=
  s.zlibPayload_memRead _ _ h

theorem State.zhdrOf_source {s : State} (h : 6 ≤ s.opr.len.toNat) :
    zhdrOf s.source = s.bufByte s.opr.src.toNat ++ s.bufByte (s.opr.src.toNat + 1) :=
  s.zhdrOf_memRead _ _ (Nat.le_trans (by decide) h)

theorem State.trailer_source {s : State} (h : 6 ≤ s.opr.len.toNat) :
    s.source.drop (s.source.length - 4) = s.memRead (s.opr.src.toNat + s.opr.len.toNat - 4) 4 :=
  s.trailer_memRead _ _ h

/-! ### What a command leaves that writes a destination range -/

/-- A state that differs from `s` by the write of `out`, its lengths and the successful end meets `emitted`. -/
theorem emitted_of_store {s t : State} {out : Bytes} {res : Results}
    (ht : t = { s.endedOk with
      res := { res with outlen := BitVec.ofNat 32 out.length, next := s.opr.dst + BitVec.ofNat 32 out.length }
      buf := s.buf.store s.opr.dst.toNat out }) : emitted s t out res := by
  have hbuf : t.buf = (s.memWrite s.opr.dst.toNat out).buf := by rw [ht]; rfl
  have hepoch : t.bufEpoch = (s.memWrite s.opr.dst.toNat out).bufEpoch := by rw [ht]; rfl
  refine ⟨?_, ?_, fun c hc => ?_⟩
  · rw [← offset_add, hbuf]
    exact ht
  · exact (State.memRead_congr hbuf hepoch _ _).trans (s.memRead_memWrite _ out)
  · exact (State.bufByte_congr hbuf hepoch c).trans (s.memWrite_bufSameOutside _ out c hc)

theorem State.emit_finish_emitted (s : State) (out : Bytes) : emitted s (s.emit out).finish out s.res :=
  emitted_of_store rfl

/-- ZSTRIP's end: the header and the trailer of the source range are recorded. -/
theorem State.recordStream_finish_emitted {s : State} (h : 6 ≤ s.opr.len.toNat) (out : Bytes) :
    emitted s ((s.emit out).recordStream s.source).finish out
      { s.res with
        zhdrIn := s.bufByte s.opr.src.toNat ++ s.bufByte (s.opr.src.toNat + 1)
        ztrailer := beword (s.memRead (s.opr.src.toNat + s.opr.len.toNat - 4) 4) } := by
  rw [← State.zhdrOf_source h, ← State.trailer_source h]
  exact emitted_of_store rfl

/-- ZUNWRAP's end: besides ZSTRIP's records, the checksum of the raw bytes and its comparison with the trailer. -/
theorem State.recordUnwrap_finish_emitted {s : State} (h : 6 ≤ s.opr.len.toNat) {trailer : Word}
    (htr : trailer = beword (s.memRead (s.opr.src.toNat + s.opr.len.toNat - 4) 4)) (r : Bytes) :
    emitted { s with status := { s.status with ztrlOk := decide (trailer = adler32 r) } }
      ((s.emit r).recordUnwrap s.source r).finish r
      { s.res with
        zhdrIn := s.bufByte s.opr.src.toNat ++ s.bufByte (s.opr.src.toNat + 1)
        ztrailer := trailer
        zadlerCalc := adler32 r } := by
  rw [htr, ← State.zhdrOf_source h, ← State.trailer_source h]
  exact emitted_of_store rfl

theorem emitted.outlen_eq {s t : State} {out : Bytes} {res : Results} (h : emitted s t out res)
    (hfit : out.length ≤ s.opr.dcap.toNat) : t.res.outlen.toNat = out.length := by
  obtain ⟨ht, -, -⟩ := h
  rw [ht]
  exact outlen_toNat hfit

/-- The `OUTLEN` bytes at DST are the output. -/
theorem emitted.written {s t : State} {out : Bytes} {res : Results} (h : emitted s t out res)
    (hfit : out.length ≤ s.opr.dcap.toNat) : t.memRead s.opr.dst.toNat t.res.outlen.toNat = out := by
  rw [h.outlen_eq hfit]
  obtain ⟨-, hread, -⟩ := h
  exact hread

theorem State.midError_midFailed (s : State) (e : CmdError) : midFailed s (s.midError e) e.code :=
  ⟨rfl, s.midError_bufSameOutside e⟩

/-! ### ZWRAP (42_zlib.md R231) -/

theorem zwrapBody_fits {T : Config.Transform} {s : State} (h : (zwrapOutput T s).length ≤ s.opr.dcap.toNat) :
    zwrapBody T s = (s.emit (zwrapOutput T s)).finish := if_neg (Nat.not_lt_of_le h)

theorem zwrapBody_overflows {T : Config.Transform} {s : State} (h : s.opr.dcap.toNat < (zwrapOutput T s).length) :
    zwrapBody T s = s.midError .overflow := if_pos h

theorem execZwrapWith_body (T : Config.Transform) {s : State} (hs : s.SrcInRange) (hd : s.DstInRange) (ha : s.Apart) :
    execZwrapWith T s = .next (zwrapBody T s) := guarded_body (pass_ranges hs hd ha)

theorem execZwrapWith_emitted {T : Config.Transform} {s : State} (hs : s.SrcInRange) (hd : s.DstInRange) (ha : s.Apart)
    (hfit : (zwrapOutput T s).length ≤ s.opr.dcap.toNat) :
    ∃ t, execZwrapWith T s = .next t ∧ emitted s t (zwrapOutput T s) s.res :=
  ⟨_, (execZwrapWith_body T hs hd ha).trans (congrArg _ (zwrapBody_fits hfit)), s.emit_finish_emitted _⟩

/-- Settles O29: the body's one branch is whether the stream fits. -/
theorem zwrapRule : Obligations.ZwrapRule := by
  refine ⟨by decide, fun s hs hd ha => ?_, exec_rangeErrors rfl rfl (by decide)⟩
  intro r out
  by_cases hfit : out.length ≤ s.opr.dcap.toNat
  · simp only [if_pos hfit]
    exact execZwrapWith_emitted hs hd ha hfit
  · simp only [if_neg hfit]
    exact ⟨_, (execZwrapWith_body _ hs hd ha).trans (congrArg _ (zwrapBody_overflows (Nat.lt_of_not_le hfit))),
      s.midError_midFailed .overflow⟩

/-- Settles O30: that the stream fits is all the body asks of the transform. -/
theorem zwrapForEveryTransform : Obligations.ZwrapForEveryTransform :=
  ⟨fun _ => rfl, fun _ _ hs hd ha hfit => execZwrapWith_emitted hs hd ha hfit⟩

/-! ### ZUNWRAP (42_zlib.md R235, R237, R240) -/

theorem zunwrapBody_inflateFails {T : Config.Transform} {s : State} (h : T.inflate (zlibPayload s.source) = none) :
    zunwrapBody T s = s.midError .inflate := by
  simp only [zunwrapBody, h]

theorem zunwrapBody_overflows {T : Config.Transform} {s : State} {r : Bytes}
    (h : T.inflate (zlibPayload s.source) = some r) (hcap : s.opr.dcap.toNat < r.length) :
    zunwrapBody T s = s.midError .overflow := by
  simp only [zunwrapBody, h, if_pos hcap]

theorem zunwrapBody_fits {T : Config.Transform} {s : State} {r : Bytes}
    (h : T.inflate (zlibPayload s.source) = some r) (hfit : r.length ≤ s.opr.dcap.toNat) :
    zunwrapBody T s = ((s.emit r).recordUnwrap s.source r).finish := by
  simp only [zunwrapBody, h, if_neg (Nat.not_lt_of_le hfit)]

theorem execZunwrapWith_body (T : Config.Transform) {s : State} (hs : s.SrcInRange) (hd : s.DstInRange) (ha : s.Apart)
    (h6 : 6 ≤ s.opr.len.toNat) : execZunwrapWith T s = .next (zunwrapBody T s) :=
  guarded_body (pass_ranges_append hs hd ha (ztruncCheck_passes h6))

theorem execZunwrapWith_fits {T : Config.Transform} {s : State} {r : Bytes} (hs : s.SrcInRange) (hd : s.DstInRange)
    (ha : s.Apart) (h6 : 6 ≤ s.opr.len.toNat) (hr : T.inflate (zlibPayload s.source) = some r)
    (hfit : r.length ≤ s.opr.dcap.toNat) :
    execZunwrapWith T s = .next ((s.emit r).recordUnwrap s.source r).finish :=
  (execZunwrapWith_body T hs hd ha h6).trans (congrArg _ (zunwrapBody_fits hr hfit))

/-- Settles O31: the body's branches are INFLATE's answer and whether it fits. -/
theorem zunwrapRule : Obligations.ZunwrapRule := by
  refine ⟨by decide, fun s hs hd ha h6 => ?_, fun s => ?_⟩
  · intro x n trailer
    have hbody := execZunwrapWith_body Config.transform hs hd ha h6
    have hx : slice x 2 (n - 4) = zlibPayload s.source := by rw [zlibPayload, s.source_length]; rfl
    cases hI : Config.transform.inflate (slice x 2 (n - 4)) with
    | none => exact ⟨_, hbody.trans (congrArg _ (zunwrapBody_inflateFails (hx ▸ hI))), s.midError_midFailed .inflate⟩
    | some r =>
      by_cases hfit : r.length ≤ s.opr.dcap.toNat
      · simp only [if_pos hfit]
        exact ⟨_, execZunwrapWith_fits hs hd ha h6 (hx ▸ hI) hfit, State.recordUnwrap_finish_emitted h6 rfl r⟩
      · simp only [if_neg hfit]
        exact ⟨_, hbody.trans (congrArg _ (zunwrapBody_overflows (hx ▸ hI) (Nat.lt_of_not_le hfit))),
          s.midError_midFailed .overflow⟩
  · obtain ⟨hsrc, hdst, hover⟩ := exec_rangeErrors (i := .zunwrap) rfl rfl (by decide) s
    exact ⟨hsrc, hdst, hover, fun hs hd ha h =>
      guarded_fails [s.srcCheck, s.dstCheck, s.overlapCheck] s.ztruncCheck [] (pass_ranges hs hd ha) (ztruncCheck_stops h)⟩

/-- Settles O32: the payload is the source bytes between header and trailer. -/
theorem zunwrapForEveryTransform : Obligations.ZunwrapForEveryTransform := by
  refine ⟨fun _ => rfl, fun T s r hs hd ha h6 hr hfit => ?_⟩
  rw [← State.zlibPayload_source h6] at hr
  exact ⟨_, execZunwrapWith_fits hs hd ha h6 hr hfit, State.recordUnwrap_finish_emitted h6 rfl r⟩

/-! ### ZFRAME (42_zlib.md R245) -/

/-- Settles O33: ZFRAME's own check is that of the output's length, which is known before the body. -/
theorem zframeRule : Obligations.ZframeRule := by
  refine ⟨by decide, fun s hs hd ha hcap => ?_, fun s => ?_⟩
  · have hout := s.emit_finish_emitted (zlibStream s.opr.zhdrOut s.source s.adler)
    have hlen : (zlibStream s.opr.zhdrOut s.source s.adler).length = s.opr.len.toNat + 6 := by
      rw [zlibStream_length, s.source_length]
    exact ⟨_, guarded_body (pass_ranges_append hs hd ha (capCheck_passes hcap)), hout,
      (hout.outlen_eq (hlen.trans_le hcap)).trans hlen⟩
  · obtain ⟨hsrc, hdst, hover⟩ := exec_rangeErrors (i := .zframe) rfl rfl (by decide) s
    exact ⟨hsrc, hdst, hover, fun hs hd ha h =>
      guarded_fails [s.srcCheck, s.dstCheck, s.overlapCheck] (s.capCheck _) [] (pass_ranges hs hd ha) (capCheck_stops h)⟩

/-! ### ZSTRIP (42_zlib.md R250) -/

/-- Settles O34: ZSTRIP's own checks are that the source has a header and a trailer, then that the payload fits. -/
theorem zstripRule : Obligations.ZstripRule := by
  refine ⟨by decide, fun s hs hd ha h6 hcap => ?_, fun s => ?_⟩
  · rw [← State.zlibPayload_source h6]
    have hown := List.forall_mem_append.2 ⟨ztruncCheck_passes h6, capCheck_passes hcap⟩
    exact ⟨_, guarded_body (pass_ranges_append hs hd ha hown), State.recordStream_finish_emitted h6 _⟩
  · obtain ⟨hsrc, hdst, hover⟩ := exec_rangeErrors (i := .zstrip) rfl rfl (by decide) s
    refine ⟨hsrc, hdst, hover, fun hs hd ha h => ?_, fun hs hd ha h6 h => ?_⟩
    · exact guarded_fails [s.srcCheck, s.dstCheck, s.overlapCheck] s.ztruncCheck [s.capCheck _] (pass_ranges hs hd ha)
        (ztruncCheck_stops h)
    · exact guarded_fails ([s.srcCheck, s.dstCheck, s.overlapCheck] ++ [s.ztruncCheck]) (s.capCheck _) []
        (pass_ranges_append hs hd ha (ztruncCheck_passes h6)) (capCheck_stops h)

/-! ### What each command wrote, if it ended without error -/

theorem execZwrapWith_written {T : Config.Transform} {s t : State} (h : execZwrapWith T s = .next t)
    (hok : t.status.err = false) : t.memRead s.opr.dst.toNat t.res.outlen.toNat = zwrapOutput T s := by
  obtain ⟨-, rfl⟩ := guarded_ok h hok
  by_cases hfit : (zwrapOutput T s).length ≤ s.opr.dcap.toNat
  · rw [zwrapBody_fits hfit]
    exact (s.emit_finish_emitted _).written hfit
  · rw [zwrapBody_overflows (Nat.lt_of_not_le hfit)] at hok
    cases hok

theorem execZunwrapWith_written {T : Config.Transform} {s t : State} (h : execZunwrapWith T s = .next t)
    (hok : t.status.err = false) :
    T.inflate (zlibPayload s.source) = some (t.memRead s.opr.dst.toNat t.res.outlen.toNat) := by
  obtain ⟨hp, rfl⟩ := guarded_ok h hok
  have h6 : 6 ≤ s.opr.len.toNat := (ztruncCheck_fails s).1 (hp _ (by simp))
  cases hI : T.inflate (zlibPayload s.source) with
  | none =>
    rw [zunwrapBody_inflateFails hI] at hok
    cases hok
  | some r =>
    by_cases hfit : r.length ≤ s.opr.dcap.toNat
    · rw [zunwrapBody_fits hI hfit]
      exact congrArg some ((State.recordUnwrap_finish_emitted h6 rfl r).written hfit).symm
    · rw [zunwrapBody_overflows hI (Nat.lt_of_not_le hfit)] at hok
      cases hok

theorem execZframe_written {s t : State} (h : execZframe s = .next t) (hok : t.status.err = false) :
    t.memRead s.opr.dst.toNat t.res.outlen.toNat = zlibStream s.opr.zhdrOut s.source s.adler := by
  obtain ⟨hp, rfl⟩ := guarded_ok h hok
  have hcap := (capCheck_fails s (s.opr.len.toNat + 6)).1 (hp _ (by simp))
  refine (s.emit_finish_emitted _).written ?_
  rwa [zlibStream_length, s.source_length]

theorem execZstrip_written {s t : State} (h : execZstrip s = .next t) (hok : t.status.err = false) :
    t.memRead s.opr.dst.toNat t.res.outlen.toNat = zlibPayload s.source := by
  obtain ⟨hp, rfl⟩ := guarded_ok h hok
  have h6 : 6 ≤ s.opr.len.toNat := (ztruncCheck_fails s).1 (hp _ (by simp))
  have hcap := (capCheck_fails s (s.opr.len.toNat - 6)).1 (hp _ (by simp))
  refine (State.recordStream_finish_emitted h6 _).written ?_
  rwa [zlibPayload_length, s.source_length]

/-! ### Composition (42_zlib.md R233, R252) -/

/-- ZUNWRAP over a stream whose payload is DEFLATE of `r` writes `r` and records the stream's header and trailer. -/
theorem execZunwrapWith_zlibStream {T : Config.Transform} {u : State} {z : BitVec 16} {r : Bytes} {v : Word}
    (hs : u.SrcInRange) (hd : u.DstInRange) (ha : u.Apart) (hfit : r.length ≤ u.opr.dcap.toNat)
    (hz : u.source = zlibStream z (T.deflate r) v) :
    ∃ t, execZunwrapWith T u = .next t ∧ t.status.err = false
      ∧ t.memRead u.opr.dst.toNat r.length = r ∧ t.res.outlen.toNat = r.length
      ∧ t.res.zhdrIn = z ∧ t.res.ztrailer = v ∧ t.res.zadlerCalc = adler32 r ∧ t.status.ztrlOk = decide (v = adler32 r) := by
  have h6 : 6 ≤ u.opr.len.toNat := by
    rw [← u.source_length, hz, zlibStream_length]
    exact Nat.le_add_left 6 _
  have hI : T.inflate (zlibPayload u.source) = some r := by rw [hz, zlibPayload_zlibStream, T.law]
  have htr : beword (u.source.drop (u.source.length - 4)) = v := by rw [hz, beword_trailer_zlibStream]
  have hout := State.recordUnwrap_finish_emitted h6 rfl r
  have hlen := hout.outlen_eq hfit
  obtain ⟨-, hread, -⟩ := hout
  refine ⟨_, execZunwrapWith_fits hs hd ha h6 hI hfit, rfl, hread, hlen, ?_, htr, rfl, ?_⟩
  · exact (congrArg zhdrOf hz).trans (zhdrOf_zlibStream _ _ _)
  · rw [← htr]; rfl

/-- Settles O44: what ZWRAP wrote is a stream over DEFLATE of `r`, with `r`'s checksum as its trailer. -/
theorem wrapUnwrapRoundTrip : Obligations.WrapUnwrapRoundTrip := by
  rintro T s t u r rfl ht hok hs hd ha hfit hz
  have hsrc : u.source = zwrapOutput T s := hz.trans (execZwrapWith_written ht hok)
  obtain ⟨v, hv, herr, hread, hlen, hhdr, htrl, hcalc, hztrl⟩ := execZunwrapWith_zlibStream hs hd ha hfit hsrc
  exact ⟨v, hv, herr, hread, hlen, hhdr, htrl, hcalc, hztrl.trans (decide_eq_true rfl)⟩

/-- Settles O45: both sides of each half are written out by what the commands wrote. -/
theorem halvesCompose : Obligations.HalvesCompose := by
  refine ⟨fun T s t u v ht htok hv hvok hhdr hdeflate hadler => ?_, fun T s t u v ht htok hv hvok hsrc => ?_⟩
  · calc v.memRead u.opr.dst.toNat v.res.outlen.toNat
        = zlibStream u.opr.zhdrOut u.source u.adler := execZframe_written hv hvok
      _ = zwrapOutput T s := by rw [hhdr, State.source, hdeflate, hadler]; rfl
      _ = t.memRead s.opr.dst.toNat t.res.outlen.toNat := (execZwrapWith_written ht htok).symm
  · calc T.inflate (v.memRead u.opr.dst.toNat v.res.outlen.toNat)
        = T.inflate (zlibPayload u.source) := by rw [execZstrip_written hv hvok]
      _ = T.inflate (zlibPayload s.source) := congrArg (fun x => T.inflate (zlibPayload x)) hsrc
      _ = some (t.memRead s.opr.dst.toNat t.res.outlen.toNat) := execZunwrapWith_written ht htok

end Sys2Proof.Machine
end

section
/-! SUPPORT and SETTLED STATEMENTS of 43_framer.md: the datapaths the checksum registers are kept out of, what each framer command
does, and the chunks that CHUNK_PARSE and the host's loop give back. -/

namespace Sys2Proof.Machine

/-! ### Datapaths apart from CRC_STATE and ADLER (43_framer.md R260) -/

/-- A change `f` of the state that commutes with error ends commutes with a guarded command, if the checks are the same and the
body is changed by `f` too. -/
theorem guarded_map {f : State → State} (hf : ∀ s e, (f s).raise e = f (s.raise e)) {s t b : State} {cs : List Check}
    (h : guarded s cs b = .next t) : guarded (f s) cs (f b) = .next (f t) := by
  obtain ⟨e, he, rfl⟩ | ⟨hn, rfl⟩ := guarded_next.1 h
  · exact guarded_next.2 (.inl ⟨e, he, (hf s e).symm⟩)
  · exact guarded_next.2 (.inr ⟨hn, rfl⟩)

/-- `s` with another value in CRC_STATE. -/
def State.setCrcState (s : State) (v : Word) : State := { s with crcState := v }

/-- `s` with another value in ADLER. -/
def State.setAdler (s : State) (v : Word) : State := { s with adler := v }

/-- A register that is not among the command's results survives it. -/
theorem exec_keepsReg {i : Instr} {s t : State} {r : Reg} (h : exec i s = .next t) (hr : r ≠ .status) (hm : r ∉ resultRegs i) :
    t.readReg r = s.readReg r := by
  obtain ⟨herr, hok⟩ := commitOfRegisters i s t r h hr
  cases he : t.status.err with
  | true => exact (herr he).1
  | false => exact hok he hm

/-- No check and no body of a framer command reads CRC_STATE. -/
theorem exec_setCrcState {i : Instr} (hi : i ∈ [Instr.sigEmit, .sigCheck, .chunkEmit, .chunkParse, .chunkSplit]) {s t : State}
    (v : Word) (h : exec i s = .next t) : exec i (s.setCrcState v) = .next (t.setCrcState v) := by
  simp only [List.mem_cons, List.not_mem_nil, or_false] at hi
  obtain rfl | rfl | rfl | rfl | rfl := hi
  all_goals exact guarded_map (f := fun s => s.setCrcState v) (fun _ _ => rfl) h

theorem zwrapBody_setAdler (T : Config.Transform) (s : State) (v : Word) :
    zwrapBody T (s.setAdler v) = (zwrapBody T s).setAdler v := by
  by_cases hfit : (zwrapOutput T s).length ≤ s.opr.dcap.toNat
  · rw [zwrapBody_fits hfit]
    exact zwrapBody_fits (s := s.setAdler v) hfit
  · have hcap := Nat.lt_of_not_le hfit
    rw [zwrapBody_overflows hcap]
    exact zwrapBody_overflows (s := s.setAdler v) hcap

theorem zunwrapBody_setAdler (T : Config.Transform) (s : State) (v : Word) :
    zunwrapBody T (s.setAdler v) = (zunwrapBody T s).setAdler v := by
  cases hI : T.inflate (zlibPayload s.source) with
  | none =>
    rw [zunwrapBody_inflateFails hI]
    exact zunwrapBody_inflateFails (s := s.setAdler v) hI
  | some r =>
    by_cases hfit : r.length ≤ s.opr.dcap.toNat
    · rw [zunwrapBody_fits hI hfit]
      exact zunwrapBody_fits (s := s.setAdler v) hI hfit
    · have hcap := Nat.lt_of_not_le hfit
      rw [zunwrapBody_overflows hI hcap]
      exact zunwrapBody_overflows (s := s.setAdler v) hI hcap

/-- No check and no body of ZWRAP and ZUNWRAP reads ADLER. -/
theorem exec_setAdler {i : Instr} (hi : i ∈ [Instr.zwrap, .zunwrap]) {s t : State} (v : Word) (h : exec i s = .next t) :
    exec i (s.setAdler v) = .next (t.setAdler v) := by
  simp only [List.mem_cons, List.not_mem_nil, or_false] at hi
  have hraise : ∀ (s : State) e, (s.setAdler v).raise e = (s.raise e).setAdler v := fun _ _ => rfl
  obtain rfl | rfl := hi
  · have hset := guarded_map (f := fun s => s.setAdler v) hraise h
    rwa [← zwrapBody_setAdler] at hset
  · have hset := guarded_map (f := fun s => s.setAdler v) hraise h
    rwa [← zunwrapBody_setAdler] at hset

/-- Settles O23: neither register is a result of these commands, and neither the checks nor the body see it. -/
theorem privateDatapaths : Obligations.PrivateDatapaths := by
  have hcrc : ∀ i ∈ [Instr.sigEmit, .sigCheck, .chunkEmit, .chunkParse, .chunkSplit], Reg.crcState ∉ resultRegs i := by decide
  have hadler : ∀ i ∈ [Instr.zwrap, .zunwrap], Reg.adler ∉ resultRegs i := by decide
  exact ⟨fun i _ _ v hi h => ⟨exec_keepsReg (r := .crcState) h (by decide) (hcrc i hi), exec_setCrcState hi v h⟩,
    fun i _ _ v hi h => ⟨exec_keepsReg (r := .adler) h (by decide) (hadler i hi), exec_setAdler hi v h⟩⟩

/-! ### The signature (43_framer.md R261, R265) -/

theorem dstCheck_passes {s : State} (h : s.DstInRange) : ∀ c ∈ [s.dstCheck], c.fails = false :=
  List.forall_mem_singleton.2 ((dstCheck_fails s).2 h)

/-- Settles O35: SIG_EMIT has no source range, and its output's length is known before the body. -/
theorem sigEmitRule : Obligations.SigEmitRule := by
  refine ⟨by decide, fun s hd hcap => ?_, fun s => ?_⟩
  · have hout := s.emit_finish_emitted s.sig
    have hpass := List.forall_mem_append.2 ⟨dstCheck_passes hd, capCheck_passes hcap⟩
    exact ⟨_, guarded_body hpass, hout, congrArg (BitVec.ofNat 32) s.sig_length⟩
  · obtain ⟨-, hdst, -⟩ := checksInOrder .sigEmit s
    exact ⟨hdst rfl nofun, fun hd h => guarded_fails [s.dstCheck] (s.capCheck 8) [] (dstCheck_passes hd) (capCheck_stops h)⟩

theorem sigShortCheck_passes {s : State} (hs : s.SrcInRange) (h8 : 8 ≤ s.opr.len.toNat) :
    ∀ c ∈ [s.srcCheck, s.sigShortCheck], c.fails = false :=
  List.forall_mem_append.2 ⟨srcCheck_passes hs, List.forall_mem_singleton.2 ((sigShortCheck_fails s).2 h8)⟩

theorem exec_sigCheck_match {s : State} (hs : s.SrcInRange) (h8 : 8 ≤ s.opr.len.toNat)
    (hsig : s.memRead s.opr.src.toNat 8 = s.sig) :
    exec .sigCheck s =
      .next { s.endedOk with res := { s.res with outlen := 8, next := BitVec.ofNat 32 (s.opr.src.toNat + 8) } } := by
  rw [← offset_add]
  exact guarded_body (List.forall_mem_append.2
    ⟨sigShortCheck_passes hs h8, List.forall_mem_singleton.2 ((sigDiffersCheck_fails s).2 hsig)⟩)

/-- Settles O36: the two ways to differ from SIG are two checks with one code. -/
theorem sigCheckRule : Obligations.SigCheckRule := by
  refine ⟨by decide, fun s => exec_sigCheck_match, fun s => ⟨exec_srcRange rfl, fun hs h => ?_⟩⟩
  by_cases h8 : 8 ≤ s.opr.len.toNat
  · have hdiffers := h.resolve_left (Nat.not_lt_of_le h8)
    exact guarded_fails [s.srcCheck, s.sigShortCheck] s.sigDiffersCheck [] (sigShortCheck_passes hs h8)
      (fails_of_not (mt (sigDiffersCheck_fails s).1 hdiffers))
  · exact guarded_fails [s.srcCheck] s.sigShortCheck [s.sigDiffersCheck] (srcCheck_passes hs)
      (fails_of_not (mt (sigShortCheck_fails s).1 h8))

/-! ### CHUNK_EMIT (43_framer.md R270) -/

/-- The chunk over the source range, written out (30_encoding.md R130, R131). -/
theorem State.chunkBytes_source (s : State) (tag : Word) :
    chunkBytes tag s.source = be32 s.opr.len ++ be32 tag ++ s.source ++ be32 (crc32 (be32 tag ++ s.source)) := by
  rw [chunkBytes, s.source_length, BitVec.ofNat_toNat, BitVec.setWidth_eq]

theorem State.chunkBytes_source_length (s : State) (tag : Word) : (chunkBytes tag s.source).length = s.opr.len.toNat + 12 := by
  rw [chunkBytes_length, s.source_length]

/-- Settles O37: CHUNK_EMIT's own check is that of the output's length, which is known before the body. -/
theorem chunkEmitRule : Obligations.ChunkEmitRule := by
  refine ⟨by decide, fun s hs hd ha hcap => ?_, fun s => ?_⟩
  · have hout := s.emit_finish_emitted (chunkBytes s.opr.type s.source)
    have hlen := s.chunkBytes_source_length s.opr.type
    refine ⟨_, guarded_body (pass_ranges_append hs hd ha (capCheck_passes hcap)), ?_,
      (hout.outlen_eq (hlen.trans_le hcap)).trans hlen⟩
    rw [s.chunkBytes_source] at hout ⊢
    exact hout
  · obtain ⟨hsrc, hdst, hover⟩ := exec_rangeErrors (i := .chunkEmit) rfl rfl (by decide) s
    exact ⟨hsrc, hdst, hover, fun hs hd ha h =>
      guarded_fails [s.srcCheck, s.dstCheck, s.overlapCheck] (s.capCheck _) [] (pass_ranges hs hd ha) (capCheck_stops h)⟩

/-- What CHUNK_EMIT wrote, if it ended without error. -/
theorem execChunkEmit_written {s t : State} (h : execChunkEmit s = .next t) (hok : t.status.err = false) :
    t.memRead s.opr.dst.toNat t.res.outlen.toNat = chunkBytes s.opr.type s.source := by
  obtain ⟨hp, rfl⟩ := guarded_ok h hok
  have hcap := (capCheck_fails s (s.opr.len.toNat + 12)).1 (hp _ (by simp))
  exact (s.emit_finish_emitted _).written ((s.chunkBytes_source_length _).trans_le hcap)

/-! ### CHUNK_PARSE (43_framer.md R275, R279) -/

theorem chunkShortCheck_passes {s : State} (hs : s.SrcInRange) (h12 : 12 ≤ s.opr.len.toNat) :
    ∀ c ∈ [s.srcCheck, s.chunkShortCheck], c.fails = false :=
  List.forall_mem_append.2 ⟨srcCheck_passes hs, List.forall_mem_singleton.2 ((chunkShortCheck_fails s).2 h12)⟩

/-- Settles O38: the two truncations are two checks with one code, and the length field is read once. -/
theorem chunkParseRule : Obligations.ChunkParseRule := by
  refine ⟨by decide, fun s n hs h12 hn hfit => ?_, fun s => ⟨exec_srcRange rfl, fun hs h => ?_, fun hs h12 h => ?_⟩, ?_⟩
  · obtain rfl : n = s.chunkLen := hn
    intro src tag stored computed
    rw [Nat.add_assoc src, ← offset_add]
    exact guarded_body (List.forall_mem_append.2
      ⟨chunkShortCheck_passes hs h12, List.forall_mem_singleton.2 ((chunkRunsPastCheck_fails s).2 hfit)⟩)
  · exact guarded_fails [s.srcCheck] s.chunkShortCheck [s.chunkRunsPastCheck] (srcCheck_passes hs)
      (fails_of_not (mt (chunkShortCheck_fails s).1 (Nat.not_le_of_lt h)))
  · exact guarded_fails [s.srcCheck, s.chunkShortCheck] s.chunkRunsPastCheck [] (chunkShortCheck_passes hs h12)
      (fails_of_not (mt (chunkRunsPastCheck_fails s).1 (Nat.not_le_of_lt h)))
  · refine ⟨by decide, by decide, by decide, fun v h1 h2 h3 => ?_⟩
    exact (if_neg h1).trans ((if_neg h2).trans (if_neg h3))

/-! ### CHUNK_SPLIT (43_framer.md R285) -/

/-- The least number of parts that cover the stream is `splitCount`. -/
theorem eq_splitCount {len ceil n : Nat} (hc : 0 < ceil) (hcover : len ≤ n * ceil) (hleast : ∀ m, len ≤ m * ceil → n ≤ m) :
    n = splitCount len ceil := by
  obtain ⟨hcover', hleast'⟩ := splitCount_spec (len := len) hc
  exact Nat.le_antisymm (hleast _ hcover') (hleast' n hcover)

/-- Part `k` of the source range lies at `SRC + k * CEIL`. -/
theorem State.splitPart_source (s : State) (ceil k : Nat) :
    splitPart s.source ceil k
      = s.memRead (s.opr.src.toNat + k * ceil) (min ((k + 1) * ceil) s.opr.len.toNat - k * ceil) := by
  rw [splitPart, s.source_length]
  exact s.slice_memRead _ _ _ _ (Nat.min_le_right _ _)

/-- The chunks CHUNK_SPLIT makes of the stream `c`: tag and payload of each, in order. -/
def splitChunks (tag : Word) (c : Bytes) (ceil : Nat) : List (Word × Bytes) :=
  (List.range (splitCount c.length ceil)).map fun k => (tag, splitPart c ceil k)

/-- Chunks laid end to end (30_encoding.md R133). -/
def chunksBytes (chunks : List (Word × Bytes)) : Bytes := chunks.flatMap fun c => chunkBytes c.1 c.2

theorem chunksBytes_cons (c : Word × Bytes) (chunks : List (Word × Bytes)) :
    chunksBytes (c :: chunks) = chunkBytes c.1 c.2 ++ chunksBytes chunks := List.flatMap_cons

theorem splitBytes_eq_chunksBytes (tag : Word) (c : Bytes) (ceil : Nat) :
    splitBytes tag c ceil = chunksBytes (splitChunks tag c ceil) := by
  rw [chunksBytes, splitChunks, List.flatMap_map]; rfl

/-- The number of chunks CHUNK_SPLIT writes. -/
def State.chunkCount (s : State) : Nat := splitCount s.opr.len.toNat s.opr.ceil.toNat

/-- The chunks CHUNK_SPLIT writes. -/
def State.chunksOfSource (s : State) : List (Word × Bytes) := splitChunks s.opr.type s.source s.opr.ceil.toNat

/-- CHUNK_SPLIT's successful end. -/
def State.splitDone (s : State) : State :=
  let t := s.emit (chunksBytes s.chunksOfSource)
  State.finish { t with res := { t.res with chunkCnt := BitVec.ofNat 32 s.chunkCount } }

theorem State.splitDone_emitted (s : State) :
    emitted s s.splitDone (chunksBytes s.chunksOfSource) { s.res with chunkCnt := BitVec.ofNat 32 s.chunkCount } :=
  emitted_of_store rfl

theorem State.chunksOfSource_length (s : State) : s.chunksOfSource.length = s.chunkCount := by
  rw [State.chunksOfSource, splitChunks, List.length_map, List.length_range, s.source_length]; rfl

theorem State.chunksOfSource_bytes_length {s : State} (hc : s.opr.ceil ≠ 0) :
    (chunksBytes s.chunksOfSource).length = s.opr.len.toNat + 12 * s.chunkCount := by
  rw [State.chunksOfSource, ← splitBytes_eq_chunksBytes, splitBytes_length _ _ (ceil_pos hc), s.source_length]; rfl

/-- CHUNK_SPLIT's checks and end. -/
theorem execChunkSplit_eq (s : State) :
    execChunkSplit s = guarded s ([s.srcCheck, s.dstCheck, s.ceilCheck, s.overlapCheck]
      ++ [s.capCheck (s.opr.len.toNat + 12 * s.chunkCount)]) s.splitDone := by
  rw [State.splitDone, State.chunksOfSource, ← splitBytes_eq_chunksBytes]; rfl

theorem splitChecks_pass {s : State} (hs : s.SrcInRange) (hd : s.DstInRange) (hc : s.opr.ceil ≠ 0) (ha : s.Apart) :
    ∀ c ∈ [s.srcCheck, s.dstCheck, s.ceilCheck, s.overlapCheck], c.fails = false := by
  simp only [List.forall_mem_cons, srcCheck_fails, dstCheck_fails, ceilCheck_fails, overlapCheck_fails]
  exact ⟨hs, hd, hc, ha, List.forall_mem_nil _⟩

/-- Settles O39: a least cover is `splitCount`, and the parts of the source are parts of BUF. -/
theorem chunkSplitRule : Obligations.ChunkSplitRule := by
  refine ⟨by decide, fun s n hs hd hc ha hcover hleast hcap => ?_, fun s => ?_⟩
  · obtain rfl : n = s.chunkCount := eq_splitCount (ceil_pos hc) hcover hleast
    have hlen := State.chunksOfSource_bytes_length hc
    have hout := s.splitDone_emitted
    refine ⟨s.splitDone, ?_, ?_, (hout.outlen_eq (hlen.trans_le hcap)).trans hlen⟩
    · exact (execChunkSplit_eq s).trans
        (guarded_body (List.forall_mem_append.2 ⟨splitChecks_pass hs hd hc ha, capCheck_passes hcap⟩))
    · rw [State.chunksOfSource, splitChunks, chunksBytes, List.flatMap_map, s.source_length] at hout
      simp only [← State.splitPart_source]
      exact hout
  · obtain ⟨hsrc, hdst, hceil, hover⟩ := checksInOrder .chunkSplit s
    refine ⟨hsrc rfl, fun hs => hdst rfl fun _ => hs, hceil rfl, fun hs hd hc => hover rfl rfl hs hd fun _ => hc,
      fun n hs hd hc ha hcover hleast h => ?_⟩
    obtain rfl : n = s.chunkCount := eq_splitCount (ceil_pos hc) hcover hleast
    exact guarded_fails [s.srcCheck, s.dstCheck, s.ceilCheck, s.overlapCheck] (s.capCheck _) []
      (splitChecks_pass hs hd hc ha) (capCheck_stops h)

/-! ### Parsing a chunk (43_framer.md R275, R290) -/

/-- Bytes read as a string in two pieces are the pieces, one after the other. -/
theorem State.memRead_eq_append {s : State} {a n : Nat} {x y : Bytes} (h : s.memRead a n = x ++ y) :
    s.memRead a x.length = x ∧ s.memRead (a + x.length) (n - x.length) = y := by
  obtain rfl : n = x.length + y.length := by rw [← List.length_append, ← h, State.memRead_length]
  rw [s.memRead_append] at h
  rw [Nat.add_sub_cancel_left]
  exact List.append_inj h (s.memRead_length _ _)

/-- The fields of a chunk in BUF (30_encoding.md R130, R131), and what follows it. -/
theorem State.memRead_chunkBytes {s : State} {a n : Nat} {tag : Word} {p rest : Bytes}
    (h : s.memRead a n = chunkBytes tag p ++ rest) :
    s.memRead a 4 = be32 (BitVec.ofNat 32 p.length) ∧ s.memRead (a + 4) 4 = be32 tag ∧ s.memRead (a + 8) p.length = p
    ∧ s.memRead (a + 8 + p.length) 4 = be32 (crc32 (be32 tag ++ p))
    ∧ s.memRead (a + (p.length + 12)) (n - (p.length + 12)) = rest := by
  rw [chunkBytes, List.append_assoc, List.append_assoc, List.append_assoc] at h
  obtain ⟨hlen, h⟩ := State.memRead_eq_append h
  obtain ⟨htag, h⟩ := State.memRead_eq_append h
  obtain ⟨hpayload, h⟩ := State.memRead_eq_append h
  obtain ⟨hcrc, hrest⟩ := State.memRead_eq_append h
  refine ⟨hlen, htag, hpayload, hcrc, ?_⟩
  rw [← hrest]
  congr 1 <;> simp only [be32_length] <;> omega

/-- Bytes that begin with a chunk are as many as the chunk's, or more. -/
theorem State.chunkBytes_fits {s : State} {a n : Nat} {tag : Word} {p rest : Bytes}
    (h : s.memRead a n = chunkBytes tag p ++ rest) : p.length + 12 ≤ n := by
  rw [← s.memRead_length a n, h, List.length_append, chunkBytes_length]
  exact Nat.le_add_right _ _

theorem beword_be32 (v : Word) : beword (be32 v) = v := by
  simpa using be32_beword v []

/-- The state after CHUNK_PARSE over a chunk of this tag and payload with the CRC of both. -/
def State.parsedChunk (s : State) (tag : Word) (p : Bytes) : State :=
  { s.endedOk with
    status := { s.endedOk.status with crcOk := true }
    res := { s.res with
      outlen := BitVec.ofNat 32 (12 + p.length)
      next := BitVec.ofNat 32 (s.opr.src.toNat + 12 + p.length)
      chLen := BitVec.ofNat 32 p.length
      chType := tag
      chCrc := crc32 (be32 tag ++ p)
      chCrcCalc := crc32 (be32 tag ++ p)
      chKind := chunkKind tag } }

/-- CHUNK_PARSE over a source range that begins with a chunk. -/
theorem exec_chunkParse_chunkBytes {s : State} {tag : Word} {p rest : Bytes} (hs : s.SrcInRange)
    (h : s.source = chunkBytes tag p ++ rest) : exec .chunkParse s = .next (s.parsedChunk tag p) := by
  obtain ⟨hlen, htag, hpayload, hcrc, -⟩ := State.memRead_chunkBytes h
  have hfit := State.chunkBytes_fits h
  have hfield : p.length = (beword (s.memRead s.opr.src.toNat 4)).toNat := by
    rw [hlen, beword_be32]
    exact (Nat.mod_eq_of_lt (by omega)).symm
  obtain ⟨-, hparse, -⟩ := chunkParseRule
  have hend := hparse s p.length hs (by omega) hfield (by omega)
  simp only [htag, hpayload, hcrc, beword_be32, decide_true] at hend
  exact hend

/-- Offsets within BUF lose nothing in 32 bits. -/
theorem State.ofNat_toNat_of_le_bufBytes (s : State) {n : Nat} (h : n ≤ s.bufBytes) : (BitVec.ofNat 32 n).toNat = n := by
  have hb := s.bufBytes_le
  exact Nat.mod_eq_of_lt (by omega)

/-- OUTLEN, NEXT and CH_LEN after the parse, as numbers. -/
theorem State.parsedChunk_toNat {s : State} {tag : Word} {p : Bytes} (h : s.opr.src.toNat + (p.length + 12) ≤ s.bufBytes) :
    (s.parsedChunk tag p).res.outlen.toNat = p.length + 12
    ∧ (s.parsedChunk tag p).res.next.toNat = s.opr.src.toNat + (p.length + 12)
    ∧ (s.parsedChunk tag p).res.chLen.toNat = p.length := by
  refine ⟨?_, ?_, s.ofNat_toNat_of_le_bufBytes (by omega)⟩
  · rw [Nat.add_comm p.length]
    exact s.ofNat_toNat_of_le_bufBytes (by omega)
  · rw [Nat.add_comm p.length, ← Nat.add_assoc]
    exact s.ofNat_toNat_of_le_bufBytes (by omega)

/-- Settles O46: what CHUNK_EMIT wrote is a chunk with nothing after it. -/
theorem emitParseRoundTrip : Obligations.EmitParseRoundTrip := by
  rintro s t u p rfl ht hok hs hz
  have hsrc : u.source = chunkBytes s.opr.type s.source ++ [] := by
    rw [List.append_nil]
    exact hz.trans (execChunkEmit_written ht hok)
  have hin : u.opr.src.toNat + (s.source.length + 12) ≤ u.bufBytes := by
    have hlen := congrArg List.length hsrc
    rw [List.append_nil, u.source_length, chunkBytes_length] at hlen
    exact hlen ▸ hs
  obtain ⟨hout, hnext, hlen⟩ := State.parsedChunk_toNat (tag := s.opr.type) hin
  obtain ⟨-, -, hpayload, -⟩ := State.memRead_chunkBytes hsrc
  refine ⟨_, exec_chunkParse_chunkBytes hs hsrc, rfl, rfl, hlen, ?_, rfl, rfl, rfl⟩
  rw [hout, hnext, Nat.add_sub_cancel]
  exact hpayload

/-! ### The host's loop (43_framer.md R280) -/

/-- One turn of the loop: the parse ends without error, and the loop goes on from NEXT in the state the parse left. -/
theorem parseLoop_turn {fuel : Nat} {s t : State} {a n : Nat} {cs : List ParsedChunk} (hn : 0 < n)
    (ht : exec .chunkParse (s.withSource a n) = .next t) (hok : t.status.err = false)
    (hcs : parseLoop fuel t t.res.next.toNat (a + n - t.res.next.toNat) = some cs) :
    parseLoop (fuel + 1) s a n =
      some (⟨t.res.chType, t.res.next.toNat - t.res.outlen.toNat + 8, t.res.chLen.toNat, t.status.crcOk⟩ :: cs) := by
  obtain ⟨rem, rfl⟩ := Nat.exists_eq_add_of_lt hn
  rw [Nat.zero_add] at ht hcs ⊢
  simp only [parseLoop, ht, hok, hcs, Bool.false_eq_true, if_false]

/-- What the loop collects of chunks laid end to end from `a`. -/
def collected : Nat → List (Word × Bytes) → List ParsedChunk
  | _, [] => []
  | a, c :: chunks => ⟨c.1, a + 8, c.2.length, true⟩ :: collected (a + (c.2.length + 12)) chunks

/-- `parseLoop_turn` over bytes that begin with a chunk. -/
theorem parseLoop_chunkBytes {fuel : Nat} {s : State} {a n : Nat} {tag : Word} {p rest : Bytes} {cs : List ParsedChunk}
    (hin : a + n ≤ s.bufBytes) (h : s.memRead a n = chunkBytes tag p ++ rest)
    (hcs : parseLoop fuel ((s.withSource a n).parsedChunk tag p) (a + (p.length + 12)) (n - (p.length + 12)) = some cs) :
    parseLoop (fuel + 1) s a n = some (⟨tag, a + 8, p.length, true⟩ :: cs) := by
  have hn := State.chunkBytes_fits h
  obtain ⟨hsrc, -⟩ := State.withSource_toNat hin
  have hparse := exec_chunkParse_chunkBytes (State.withSource_srcInRange hin) ((State.withSource_source hin).trans h)
  obtain ⟨hout, hnext, hlen⟩ := State.parsedChunk_toNat (s := s.withSource a n) (tag := tag) (p := p)
    (hsrc.symm ▸ Nat.le_trans (Nat.add_le_add_left hn a) hin)
  rw [hsrc] at hnext
  have hturn := parseLoop_turn (cs := cs) (by omega) hparse rfl (by rw [hnext, Nat.add_sub_add_left]; exact hcs)
  rw [hout, hnext, Nat.add_sub_cancel, hlen] at hturn
  exact hturn

/-- The loop over chunks laid end to end collects them all, with one unit of fuel each. -/
theorem parseLoop_chunksBytes {chunks : List (Word × Bytes)} {s : State} {a n : Nat} (hin : a + n ≤ s.bufBytes)
    (h : s.memRead a n = chunksBytes chunks) : parseLoop chunks.length s a n = some (collected a chunks) := by
  induction chunks generalizing s a n with
  | nil =>
    obtain rfl : n = 0 := by simpa [chunksBytes] using congrArg List.length h
    rfl
  | cons c chunks ih =>
    rw [chunksBytes_cons] at h
    have hn := State.chunkBytes_fits h
    obtain ⟨-, -, -, -, hrest⟩ := State.memRead_chunkBytes h
    refine parseLoop_chunkBytes hin h (ih (s := (s.withSource a n).parsedChunk c.1 c.2) ?_ ?_)
    · show a + (c.2.length + 12) + (n - (c.2.length + 12)) ≤ s.bufBytes
      omega
    · exact (State.memRead_congr rfl rfl _ _).trans hrest

/-- What is collected of chunks in BUF: their tags, their payloads as BUF holds them, and CRC_OK = 1. -/
theorem collected_map {chunks : List (Word × Bytes)} {s : State} {a n : Nat} (h : s.memRead a n = chunksBytes chunks) :
    (collected a chunks).map (fun c => (c.tag, s.memRead c.payloadAt c.len, c.crcOk)) = chunks.map fun c => (c.1, c.2, true) := by
  induction chunks generalizing a n with
  | nil => rfl
  | cons c chunks ih =>
    rw [chunksBytes_cons] at h
    obtain ⟨-, -, hpayload, -, hrest⟩ := State.memRead_chunkBytes h
    rw [collected, List.map_cons, List.map_cons, ih hrest, hpayload]

theorem readAll_eq_parseLoop {fuel : Nat} {s t : State} {a n : Nat} (ht : exec .sigCheck (s.withSource a n) = .next t)
    (hok : t.status.err = false) : readAll fuel s a n = parseLoop fuel t t.res.next.toNat (a + n - t.res.next.toNat) := by
  simp only [readAll, ht, hok, Bool.false_eq_true, if_false]

/-- Settles O48: after the signature lie chunks end to end, and the loop starts at them. -/
theorem readAllOfAContainer : Obligations.ReadAllOfAContainer := by
  intro s a n chunks hin h
  have h8 : 8 ≤ n := by
    rw [← s.memRead_length a n, h, List.length_append, s.sig_length]
    exact Nat.le_add_right 8 _
  obtain ⟨hsig, hchunks⟩ := State.memRead_eq_append h
  rw [s.sig_length] at hsig hchunks
  refine ⟨collected (a + 8) chunks, ?_, collected_map hchunks⟩
  obtain ⟨hsrc, hlen⟩ := State.withSource_toNat hin
  have hcheck := exec_sigCheck_match (State.withSource_srcInRange hin) (hlen.symm ▸ h8)
    (hsrc.symm ▸ (State.memRead_congr rfl rfl a 8).trans hsig)
  have hnext : (BitVec.ofNat 32 ((s.withSource a n).opr.src.toNat + 8)).toNat = a + 8 := by
    rw [hsrc]
    exact s.ofNat_toNat_of_le_bufBytes (by omega)
  rw [readAll_eq_parseLoop hcheck rfl]
  simp only [hnext, Nat.add_sub_add_left]
  refine parseLoop_chunksBytes ?_ ((State.memRead_congr rfl rfl _ _).trans hchunks)
  show a + 8 + (n - 8) ≤ s.bufBytes
  omega

/-! ### The loop over what CHUNK_SPLIT wrote (43_framer.md R288) -/

theorem collected_length (a : Nat) (chunks : List (Word × Bytes)) : (collected a chunks).length = chunks.length := by
  induction chunks generalizing a with
  | nil => rfl
  | cons c chunks ih => exact congrArg (· + 1) (ih _)

/-- Chunk `k` is collected where the chunks before it end. -/
theorem collected_getElem? (a : Nat) (chunks : List (Word × Bytes)) (k : Nat) :
    (collected a chunks)[k]?
      = chunks[k]?.map fun c => ⟨c.1, a + (chunksBytes (chunks.take k)).length + 8, c.2.length, true⟩ := by
  induction chunks generalizing a k with
  | nil => rfl
  | cons c chunks ih =>
    cases k with
    | zero => rfl
    | succ k =>
      simp only [collected, List.getElem?_cons_succ, ih, List.take_succ_cons, chunksBytes_cons, List.length_append,
        chunkBytes_length, Nat.add_assoc]

/-- The payloads of the chunks collected, joined. -/
theorem collected_payloads {chunks : List (Word × Bytes)} {s : State} {a n : Nat} (h : s.memRead a n = chunksBytes chunks) :
    ((collected a chunks).flatMap fun c => s.memRead c.payloadAt c.len) = chunks.flatMap fun c => c.2 := by
  have hjoin := congrArg (fun l => l.flatMap fun c => c.2.1) (collected_map h)
  simp only [List.flatMap_map] at hjoin
  exact hjoin

/-- A part before the last has CEIL bytes. -/
theorem splitPart_length_of_not_last {c : Bytes} {ceil k : Nat} (hc : 0 < ceil) (hk : k + 1 < splitCount c.length ceil) :
    (splitPart c ceil k).length = ceil := by
  have hend := splitCount_start hc hk
  rw [splitPart_length, Nat.min_eq_left (Nat.le_of_lt hend), Nat.succ_mul, Nat.add_sub_cancel_left]

/-- No part is empty or has more than CEIL bytes. -/
theorem splitPart_length_bounds {c : Bytes} {ceil k : Nat} (hc : 0 < ceil) (hk : k < splitCount c.length ceil) :
    1 ≤ (splitPart c ceil k).length ∧ (splitPart c ceil k).length ≤ ceil := by
  have hstart := splitCount_start hc hk
  rw [splitPart_length, Nat.succ_mul]
  omega

/-- The chunks before chunk `k` fill `k` times CEIL and a chunk's own 12 bytes. -/
theorem splitChunks_take_length (tag : Word) {c : Bytes} {ceil k : Nat} (hc : 0 < ceil) (hk : k < splitCount c.length ceil) :
    (chunksBytes ((splitChunks tag c ceil).take k)).length = k * (ceil + 12) := by
  have hstart := splitCount_start hc hk
  rw [splitChunks, ← List.map_take, List.take_range, Nat.min_eq_left (Nat.le_of_lt hk), chunksBytes, List.flatMap_map,
    flatMap_chunkBytes_length, splitPart_join c hc k (Nat.le_of_lt hk), List.length_take, Nat.mul_add,
    Nat.min_eq_left (Nat.le_of_lt hstart), Nat.mul_comm 12]

/-- Chunk `k` as the loop collects it. -/
theorem collected_splitChunks {a : Nat} {tag : Word} {c : Bytes} {ceil k : Nat} (hc : 0 < ceil) {d : ParsedChunk}
    (hd : (collected a (splitChunks tag c ceil))[k]? = some d) :
    k < splitCount c.length ceil ∧ d = ⟨tag, a + k * (ceil + 12) + 8, (splitPart c ceil k).length, true⟩ := by
  have hk : k < splitCount c.length ceil := by
    obtain ⟨h, -⟩ := List.getElem?_eq_some_iff.1 hd
    rwa [collected_length, splitChunks, List.length_map, List.length_range] at h
  rw [collected_getElem?, splitChunks_take_length tag hc hk, splitChunks, List.getElem?_map, List.getElem?_range hk] at hd
  exact ⟨hk, (Option.some.inj hd).symm⟩

/-- The payloads of the chunks of a stream are the stream. -/
theorem splitChunks_payloads (tag : Word) (c : Bytes) {ceil : Nat} (hc : 0 < ceil) :
    ((splitChunks tag c ceil).flatMap fun d => d.2) = c := by
  rw [splitChunks, List.flatMap_map]
  exact splitPart_join_all c hc

/-- What CHUNK_SPLIT wrote, if it ended without error. -/
theorem execChunkSplit_written {s t : State} (h : execChunkSplit s = .next t) (hok : t.status.err = false) :
    s.opr.ceil ≠ 0 ∧ t.par = s.par ∧ t.res.chunkCnt.toNat = s.chunkCount
    ∧ s.opr.dst.toNat + t.res.outlen.toNat ≤ s.bufBytes
    ∧ t.memRead s.opr.dst.toNat t.res.outlen.toNat = chunksBytes s.chunksOfSource := by
  rw [execChunkSplit_eq] at h
  obtain ⟨hp, rfl⟩ := guarded_ok h hok
  have hd := (dstCheck_fails s).1 (hp _ (by simp))
  have hc := (ceilCheck_fails s).1 (hp _ (by simp))
  have hcap := (capCheck_fails s (s.opr.len.toNat + 12 * s.chunkCount)).1 (hp _ (by simp))
  have hout := s.splitDone_emitted
  have hfit := (State.chunksOfSource_bytes_length hc).trans_le hcap
  have hcount : s.chunkCount ≤ s.opr.dcap.toNat := by omega
  refine ⟨hc, rfl, outlen_toNat hcount, ?_, hout.written hfit⟩
  rw [hout.outlen_eq hfit]
  exact Nat.le_trans (Nat.add_le_add_left hfit _) hd

/-- Settles O47: the output is the chunks of the source, end to end, and the loop collects chunks that lie so. -/
theorem splitParsesBack : Obligations.SplitParsesBack := by
  intro s t h hok
  obtain ⟨hc, hpar, hcount, hin, hwritten⟩ := execChunkSplit_written h hok
  have hceil := ceil_pos hc
  have hlen : splitCount s.source.length s.opr.ceil.toNat = s.chunkCount := by rw [s.source_length]; rfl
  have hloop := parseLoop_chunksBytes (s := t) (by rw [State.bufBytes, hpar]; exact hin) hwritten
  have hcslen : (collected s.opr.dst.toNat s.chunksOfSource).length = s.chunkCount := by
    rw [collected_length, s.chunksOfSource_length]
  rw [s.chunksOfSource_length, ← hcount] at hloop
  refine ⟨_, hloop, hcslen.trans hcount.symm, fun c hmem => ?_, fun k c hk => ?_, ?_⟩
  · obtain ⟨k, hk⟩ := List.mem_iff_getElem?.1 hmem
    obtain ⟨-, rfl⟩ := collected_splitChunks hceil hk
    exact ⟨rfl, rfl⟩
  · obtain ⟨hlt, rfl⟩ := collected_splitChunks hceil hk
    rw [hcslen, ← hlen]
    exact ⟨rfl, splitPart_length_of_not_last hceil, fun _ => splitPart_length_bounds hceil hlt⟩
  · exact (collected_payloads hwritten).trans (splitChunks_payloads _ _ hceil)

end Sys2Proof.Machine
end

section
/-! SETTLED STATEMENTS of 60_exceptions.md: the error codes of each command, and the interrupt output. -/

namespace Sys2Proof.Machine

/-! ### The error codes of each command (60_exceptions.md R302) -/

/-- The mid-operation errors are in the rows of their commands (40_command_execution.md R171). -/
theorem midError_code_mem_errorsOf {i : Instr} {e : CmdError}
    (h : (i = .zwrap ∧ e = .overflow) ∨ (i = .zunwrap ∧ (e = .overflow ∨ e = .inflate))) : e.code ∈ errorsOf i := by
  obtain ⟨rfl, rfl⟩ | ⟨rfl, rfl | rfl⟩ := h <;> decide

/-- Settles O17: an error end of either kind stores the code of its error, and a success leaves ERR clear. -/
theorem errorsPerCommand : Obligations.ErrorsPerCommand := by
  intro i s t h herr
  obtain ⟨e, hmem, rfl⟩ | ⟨e, hmid, -, rfl⟩ | ⟨u, -, rfl⟩ := exec_cases h
  · exact hmem
  · exact midError_code_mem_errorsOf hmid
  · cases herr

/-! ### The interrupt output (60_exceptions.md R310) -/

theorem State.irq_eq_true_iff (s : State) : s.irq = true ↔ s.ie = true ∧ (s.status.done = true ∨ s.status.err = true) := by
  rw [State.irq, Bool.and_eq_true_iff, Bool.or_eq_true_iff]

/-- With exactly one of DONE and ERR set, `irq` is CTRL.IE. -/
theorem State.irq_eq_ie {s : State} (h : s.status.done = !s.status.err) : s.irq = s.ie := by
  rw [State.irq, h, Bool.not_or_self, Bool.and_true]

/-- Settles O56: a command ends with exactly one of DONE and ERR set, and keeps CTRL.IE. -/
theorem interruptOutput : Obligations.InterruptOutput := by
  refine ⟨State.irq_eq_true_iff, fun i s t h => ?_⟩
  obtain ⟨t', ht', -, hends⟩ := everyCommandEnds i s
  obtain rfl : t' = t := Host.Outcome.next.inj (ht'.symm.trans h)
  obtain ⟨-, hie, -⟩ := commandsKeepOperands i s t' h
  calc t'.irq = t'.ie := State.irq_eq_ie hends
    _ = s.ie := hie

end Sys2Proof.Machine
end

section
/-! SUPPORT and SETTLED STATEMENTS of 70_reset_and_hazards.md: the reset state, the soft reset, and the end of a pending
command. -/

namespace Sys2Proof.Machine

/-! ### Power-on reset (70_reset_and_hazards.md R341) -/

/-- The reset state is legal for every legal BUF_BYTES (00_scope.md R8) and every signature. -/
theorem State.Inv.resetWith {p : Params} (h : Config.bufBytesMin ≤ p.bufBytes.val) : (State.resetWith p).Inv where
  bufLegal := h
  bufForm := List.Pairwise.nil
  bufBound := List.forall_mem_nil _
  oneEnd := by simp [State.resetWith, Status.reset]
  code := by simp [State.resetWith, Status.reset]
  pendingClear := fun _ => ⟨rfl, rfl⟩
  heldHoldable := List.forall_mem_nil _
  drawUsed := Nat.zero_lt_one

/-- Settles O13: the default BUF_BYTES is a legal one. -/
theorem resetIsLegal : Obligations.ResetIsLegal := State.Inv.resetWith (p := Params.standard) (by decide)

/-! ### Soft reset (70_reset_and_hazards.md R342) -/

/-- Dropping a pending command touches BUF and the draw counter only. -/
theorem State.dropPending_frame (s : State) :
    s.dropPending = { s with buf := s.dropPending.buf, draws := s.dropPending.draws } := by
  obtain hd | ⟨w, i, -, -, -, hd⟩ := s.dropPending_cases
  · rw [hd]
  · rw [hd]
    rfl

theorem State.dropPending_par (s : State) : s.dropPending.par = s.par := by
  rw [s.dropPending_frame]

theorem State.dropPending_arrivals (s : State) : s.dropPending.arrivals = s.arrivals := by
  rw [s.dropPending_frame]

theorem State.softReset_eng (s : State) : s.softReset.eng = .idle := s.dropPending.resetRegs_eng

theorem State.softReset_held (s : State) : s.softReset.held = s.held := s.dropPending_held

theorem State.softReset_arrivals (s : State) : s.softReset.arrivals = s.arrivals := s.dropPending_arrivals

theorem State.softReset_readReg (s : State) (r : Reg) : s.softReset.readReg r = (State.resetWith s.par).readReg r := by
  rw [← s.dropPending_par]
  exact s.dropPending.resetRegs_readReg r

/-- The registers' reset leaves BUF, so BUF is what dropping the pending command leaves. -/
theorem State.softReset_bufByte (s : State) (c : Nat) : s.softReset.bufByte c = s.dropPending.bufByte c := rfl

/-- Without a pending command that writes a destination range nothing is dropped. -/
theorem State.dropPending_eq_self {s : State}
    (h : s.eng = .idle ∨ ∃ w, s.eng = .pending w ∧ ∀ i, decode w = .cmd i → writesDest i = false) : s.dropPending = s := by
  obtain hd | ⟨w, i, he, hi, hw, -⟩ := s.dropPending_cases
  · exact hd
  · obtain hidle | ⟨w', he', hnone⟩ := h
    · cases hidle.symm.trans he
    · cases he'.symm.trans he
      cases (hnone i hi).symm.trans hw

theorem State.bufByte_dropPending_outside (s : State) {c : Nat}
    (h : c < s.opr.dst.toNat ∨ min (s.opr.dst.toNat + s.opr.dcap.toNat) s.bufBytes ≤ c) :
    s.dropPending.bufByte c = s.bufByte c := by
  obtain hd | ⟨w, i, -, -, -, hd⟩ := s.dropPending_cases
  · rw [hd]
  · rw [hd]
    exact s.bufByte_undefinedBytes_outside _ _ c (by omega)

/-- An IDLE block performs the first access held (20_memory.md R87). -/
theorem step_idle_held {s : State} {a : HostAccess} {as : List HostAccess} (he : s.eng = .idle) (hh : s.held = a :: as)
    (hn : s.NoneDue) : step s = .next (State.perform { s.ticked with held := as } a) := by
  obtain ⟨-, hperform, -⟩ := heldWhilePending
  exact hperform s a as he hh hn

/-- Settles O55: the registers by `resetRegs`, BUF by what the dropped command leaves, and the next step by that of an IDLE
block with accesses held. -/
theorem softResetRule : Obligations.SoftResetRule := by
  refine fun s => ⟨⟨s.softReset_eng, s.softReset_readReg, s.softReset_held, s.softReset_arrivals⟩, fun h c => ?_,
    fun c hc => ?_, fun a as hh hn => ?_⟩
  · rw [s.softReset_bufByte, State.dropPending_eq_self h]
  · rw [s.softReset_bufByte, s.bufByte_dropPending_outside hc]
  · have hnone : s.softReset.NoneDue := by
      rw [State.NoneDue, s.softReset_arrivals]
      exact hn
    exact step_idle_held s.softReset_eng (s.softReset_held.trans hh) hnone

/-! ### A pending command ends (70_reset_and_hazards.md R361) -/

theorem State.writeCtrl_arrivals (s : State) (v : Word) : (s.writeCtrl v).arrivals = s.arrivals := by
  cases hv : v.getLsbD 1 with
  | true => rw [s.writeCtrl_reset hv, s.softReset_arrivals]
  | false => rw [s.writeCtrl_store hv]

theorem State.writeReg_arrivals (s : State) (r : Reg) (v : Word) : (s.writeReg r v).arrivals = s.arrivals := by
  cases r
  case ctrl => exact s.writeCtrl_arrivals v
  all_goals rfl

theorem State.performRead_arrivals (s : State) (t : Target) (n : Nat) : (s.performRead t n).arrivals = s.arrivals := by
  cases t <;> rfl

theorem State.performWrite_arrivals (s : State) (t : Target) (n : Nat) (v : Word) :
    (s.performWrite t n v).arrivals = s.arrivals := by
  cases t
  case register r => exact s.writeReg_arrivals r v
  all_goals rfl

theorem State.perform_arrivals (s : State) (a : HostAccess) : (s.perform a).arrivals = s.arrivals := by
  cases ho : a.op with
  | read => rw [s.perform_read ho rfl, s.performRead_arrivals]
  | write v => rw [s.perform_write ho rfl, s.performWrite_arrivals]

/-- An event adds none to those still to come. -/
theorem State.arrive_arrivals (s : State) (e : Event) : (s.arrive e).arrivals = s.arrivals := by
  cases e with
  | powerOnReset => exact s.powerOn_arrivals
  | access a =>
    by_cases h : a.holdable = true ∧ s.busWaits = true
    · obtain ⟨ha, hw⟩ := h
      rw [State.arrive_access_held ha hw]
    · rw [not_and_or, Bool.not_eq_true, Bool.not_eq_true] at h
      rw [State.arrive_access_performed h, s.perform_arrivals]

/-- The command step ends the command, whether its word decodes or not (40_command_execution.md R162). -/
theorem State.commandStep_eng {s t : State} {w : Word} (h : s.commandStep w = .next t) : t.eng = .idle := by
  obtain ⟨i, -, hx⟩ | ⟨why, -, rfl⟩ := State.commandStep_cases h
  · obtain ⟨t', ht', hidle, -⟩ := everyCommandEnds i s
    obtain rfl : t' = t := Host.Outcome.next.inj (ht'.symm.trans hx)
    exact hidle
  · exact s.raise_eng .illegal

/-- A step of a PENDING block is the command step, or uses up the first event to come. -/
theorem step_pending_cases {s t : State} {w : Word} (he : s.eng = .pending w) (h : step s = .next t) :
    t.eng = .idle ∨ ∃ e, s.arrivals = e :: t.arrivals := by
  obtain ⟨e, es, ha, -, rfl⟩ | ⟨-, hm⟩ := step_cases h
  · exact .inr ⟨e, by rw [State.arrive_arrivals, ha]⟩
  · obtain ⟨heng, -⟩ := s.ticked_fields
    rw [State.blockMove_pending (heng.trans he)] at hm
    exact .inl (State.commandStep_eng hm)

/-- Every state reaches an IDLE one, by recursion on the number of events to come: while the block is PENDING, a step ends the
command or leaves one event fewer. -/
theorem run_reaches_idle (s : State) :
    ∃ k, k ≤ s.arrivals.length + 1 ∧ ∃ t, Host.Core.run core k s = .next t ∧ t.eng = .idle := by
  cases he : s.eng with
  | idle => exact ⟨0, Nat.zero_le _, s, rfl, he⟩
  | pending w =>
    obtain ⟨t, ht⟩ := step_total s
    obtain hidle | ⟨e, ha⟩ := step_pending_cases he ht
    · exact ⟨1, Nat.le_add_left 1 _, t, run_succ ht 0, hidle⟩
    · have hfewer : s.arrivals.length = t.arrivals.length + 1 := congrArg List.length ha
      obtain ⟨k, hk, u, hu, hidle⟩ := run_reaches_idle t
      exact ⟨k + 1, by omega, u, (run_succ ht k).trans hu, hidle⟩
termination_by s.arrivals.length

/-- Settles O11: a PENDING state is one of those that reach an IDLE one. -/
theorem pendingCommandEnds : Obligations.PendingCommandEnds := fun s _ _ => run_reaches_idle s

end Sys2Proof.Machine
end
